-- ==== Sys2Proof/Word.lean ====
section
/-! DEFINITION. The words the VBAS MAC core moves and the byte arrays its registers are made of. -/

namespace Sys2Proof

/-- A command word or response word (`30_encoding.md` R90, R96). -/
abbrev Word := BitVec 32

/-- The unit of DIN and DOUT, and one limb or byte register (`20_memory.md` R61, `10_state.md` R21). -/
abbrev Byte := BitVec 8

/-- A byte string, index 0 first (`00_scope.md` R11). -/
abbrev Bytes := List Byte

/-- Sixteen byte registers: a GHASH block, the pad `s` or a partial-block buffer
(`10_state.md` R23, R24, R27 to R29). -/
abbrev Block := Vector Byte 16

/-- Seventeen limbs in radix `2^8`, limb 0 first (`10_state.md` R21, R22; `42_poly1305.md` R171). -/
abbrev Limbs := Vector Byte 17

/-- Sixteen zero bytes, what a wipe writes (`40_ct_primitives.md` R133). -/
def zeroBlock : Block := Vector.replicate 16 0#8

/-- Seventeen zero limbs. -/
def zeroLimbs : Limbs := Vector.replicate 17 0#8

end Sys2Proof
end

