-- ==== Sys2Proof/Config.lean ====
section
/-! DEFINITION. What an implementation fixes and the spec leaves open: the strap level, and the two
cipher primitives that the host owns. None has a body, so no proof can rest on a value. -/

namespace Sys2Proof

/-- The level of the strap input `CAP_CLMUL`, the OPEN parameter `cap_clmul : Bool`
(`00_scope.md` R9, `10_state.md` R40, `93_implementation_defined.md` U16). Assumption log 1. -/
opaque Config.capClmul : Bool

/-- The stream-cipher block function behind `KS20` (`45_aead_host_sequences.md` R271): 32-byte key and
16-byte counter/nonce layout to one 64-byte keystream block. The host's, uninterpreted. Assumption log 8. -/
opaque Config.chachaBlock : Vector Byte 32 → Block → Vector Byte 64

/-- A block-cipher key: 16, 24 or 32 bytes and no other length (`45_aead_host_sequences.md` R271, R280). A key of another
length is no value of this type, so the model says nothing about one. Assumption logs 8 and 20. -/
inductive BlockKey where
  | aes128 (key : Vector Byte 16)
  | aes192 (key : Vector Byte 24)
  | aes256 (key : Vector Byte 32)
  deriving DecidableEq, Repr

/-- The block cipher `E(K, B)` of `45_aead_host_sequences.md` R271. The host's, uninterpreted. Assumption log 8. -/
opaque Config.blockEncrypt : BlockKey → Block → Block

end Sys2Proof
end

