-- ==== Sys2Proof/Syntax.lean ====
section
/-! DEFINITION. The fifteen commands of command set VMC-1, one constructor per row of the opcode table. -/

namespace Sys2Proof

/-- One command word, split into the row it selects and its two other fields (`30_encoding.md` R90, R94).
`arg` and `len` are held as they stand in the word, legal or not: an illegal value is still that command
and makes it fault (R94, R98). -/
inductive Instr where
  | nop    (arg : BitVec 8) (len : BitVec 16)
  | rdsr   (arg : BitVec 8) (len : BitVec 16)
  | ctmask (arg : BitVec 8) (len : BitVec 16)
  | ctsel  (arg : BitVec 8) (len : BitVec 16)
  | cteq   (arg : BitVec 8) (len : BitVec 16)
  | wipe   (arg : BitVec 8) (len : BitVec 16)
  | pinit  (arg : BitVec 8) (len : BitVec 16)
  | pupd   (arg : BitVec 8) (len : BitVec 16)
  | pfin   (arg : BitVec 8) (len : BitVec 16)
  | ginit  (arg : BitVec 8) (len : BitVec 16)
  | gaad   (arg : BitVec 8) (len : BitVec 16)
  | gciph  (arg : BitVec 8) (len : BitVec 16)
  | gfin   (arg : BitVec 8) (len : BitVec 16)
  | gtag   (arg : BitVec 8) (len : BitVec 16)
  | gfmul  (arg : BitVec 8) (len : BitVec 16)
  deriving DecidableEq, Repr

/-- The `ARG` field (`30_encoding.md` R90). -/
def Instr.arg : Instr → BitVec 8
  | .nop a _ => a
  | .rdsr a _ => a
  | .ctmask a _ => a
  | .ctsel a _ => a
  | .cteq a _ => a
  | .wipe a _ => a
  | .pinit a _ => a
  | .pupd a _ => a
  | .pfin a _ => a
  | .ginit a _ => a
  | .gaad a _ => a
  | .gciph a _ => a
  | .gfin a _ => a
  | .gtag a _ => a
  | .gfmul a _ => a

/-- The `LEN` field (`30_encoding.md` R90). -/
def Instr.len : Instr → BitVec 16
  | .nop _ l => l
  | .rdsr _ l => l
  | .ctmask _ l => l
  | .ctsel _ l => l
  | .cteq _ l => l
  | .wipe _ l => l
  | .pinit _ l => l
  | .pupd _ l => l
  | .pfin _ l => l
  | .ginit _ l => l
  | .gaad _ l => l
  | .gciph _ l => l
  | .gfin _ l => l
  | .gtag _ l => l
  | .gfmul _ l => l

end Sys2Proof
end

