-- ==== Sys2Proof/WellFormed.lean ====
section
/-! DEFINITION. Which `ARG` and `LEN` values are legal for each command (`30_encoding.md` R92, R93).
An ill-formed command still decodes and runs: it raises `F_ARG`, `F_TAGLEN` or `F_LEN`. -/

namespace Sys2Proof

/-- Legal `ARG` per command (`30_encoding.md` R92). -/
def Instr.argLegal : Instr → Bool
  | .rdsr a _ => decide (a.toNat ≤ 2)
  | .wipe a _ => decide (1 ≤ a.toNat ∧ a.toNat ≤ 3)
  | .gtag a _ => decide (2 ≤ a.toNat ∧ a.toNat ≤ 16)
  | .gfmul a _ => decide (a.toNat ≤ 1)
  | .nop a _ => decide (a.toNat = 0)
  | .ctmask a _ => decide (a.toNat = 0)
  | .ctsel a _ => decide (a.toNat = 0)
  | .cteq a _ => decide (a.toNat = 0)
  | .pinit a _ => decide (a.toNat = 0)
  | .pupd a _ => decide (a.toNat = 0)
  | .pfin a _ => decide (a.toNat = 0)
  | .ginit a _ => decide (a.toNat = 0)
  | .gaad a _ => decide (a.toNat = 0)
  | .gciph a _ => decide (a.toNat = 0)
  | .gfin a _ => decide (a.toNat = 0)

/-- Legal `LEN` per command (`30_encoding.md` R93). -/
def Instr.lenLegal : Instr → Bool
  | .nop _ l => decide (l.toNat = 0)
  | .rdsr _ l => decide (l.toNat = 0)
  | .wipe _ l => decide (l.toNat = 0)
  | .pfin _ l => decide (l.toNat = 0)
  | .gfin _ l => decide (l.toNat = 0)
  | .ctmask _ l => decide (l.toNat = 8)
  | .ctsel _ l => decide (l.toNat = 12)
  | .cteq _ l => decide (l.toNat % 2 = 0 ∧ 2 ≤ l.toNat)
  | .pinit _ l => decide (l.toNat = 32)
  | .ginit _ l => decide (l.toNat = 16)
  | .gtag _ l => decide (l.toNat = 32)
  | .gfmul _ l => decide (l.toNat = 32)
  | .pupd _ _ => true
  | .gaad _ _ => true
  | .gciph _ _ => true

/-- A command both of whose fields are legal. -/
def Instr.wf (i : Instr) : Bool := i.argLegal && i.lenLegal

end Sys2Proof
end

