-- ==== Sys2Proof/Decode.lean ====
section
/-! DEFINITION. The decoder and the encoder of command words (`30_encoding.md` R90, R91, R94, R95 step 1). -/

namespace Sys2Proof

/-- Why a word selects no row: its `OPC` is not one of the fifteen (`30_encoding.md` R98, `F_OPCODE`). -/
inductive DecodeError where
  | unassignedOpcode (opc : BitVec 8)
  deriving DecidableEq, Repr

/-- `OPC`, word bits 31:24 (`30_encoding.md` R90). -/
def opcOf (w : Word) : BitVec 8 := w.extractLsb' 24 8

/-- `ARG`, word bits 23:16. -/
def argOf (w : Word) : BitVec 8 := w.extractLsb' 16 8

/-- `LEN`, word bits 15:0. -/
def lenOf (w : Word) : BitVec 16 := w.extractLsb' 0 16

/-- The opcode map (`30_encoding.md` R94). Decoding is by the whole 8-bit `OPC` (R91). -/
def decodeFields (opc arg : BitVec 8) (len : BitVec 16) : Except DecodeError Instr :=
  match opc with
  | 0x00#8 => .ok (.nop arg len)
  | 0x01#8 => .ok (.rdsr arg len)
  | 0x10#8 => .ok (.ctmask arg len)
  | 0x11#8 => .ok (.ctsel arg len)
  | 0x12#8 => .ok (.cteq arg len)
  | 0x13#8 => .ok (.wipe arg len)
  | 0x20#8 => .ok (.pinit arg len)
  | 0x21#8 => .ok (.pupd arg len)
  | 0x22#8 => .ok (.pfin arg len)
  | 0x30#8 => .ok (.ginit arg len)
  | 0x31#8 => .ok (.gaad arg len)
  | 0x32#8 => .ok (.gciph arg len)
  | 0x33#8 => .ok (.gfin arg len)
  | 0x34#8 => .ok (.gtag arg len)
  | 0x35#8 => .ok (.gfmul arg len)
  | other => .error (.unassignedOpcode other)

/-- Decode one command word; total, and a word that selects no row is rejected by name. -/
def decode (w : Word) : Except DecodeError Instr := decodeFields (opcOf w) (argOf w) (lenOf w)

/-- The `OPC` of each command (`30_encoding.md` R94). -/
def Instr.opc : Instr → BitVec 8
  | .nop _ _ => 0x00#8
  | .rdsr _ _ => 0x01#8
  | .ctmask _ _ => 0x10#8
  | .ctsel _ _ => 0x11#8
  | .cteq _ _ => 0x12#8
  | .wipe _ _ => 0x13#8
  | .pinit _ _ => 0x20#8
  | .pupd _ _ => 0x21#8
  | .pfin _ _ => 0x22#8
  | .ginit _ _ => 0x30#8
  | .gaad _ _ => 0x31#8
  | .gciph _ _ => 0x32#8
  | .gfin _ _ => 0x33#8
  | .gtag _ _ => 0x34#8
  | .gfmul _ _ => 0x35#8

/-- The three fields in one word: `OPC` in bits 31:24, `ARG` in 23:16, `LEN` in 15:0 (`30_encoding.md` R90), by the formula
`(OPC << 24) | (ARG << 16) | LEN` of R101. -/
def encodeFields (opc arg : BitVec 8) (len : BitVec 16) : Word :=
  (opc.setWidth 32 <<< 24) ||| (arg.setWidth 32 <<< 16) ||| len.setWidth 32

/-- The command word of an instruction (`30_encoding.md` R90, R94, R101). -/
def encode (i : Instr) : Word := encodeFields i.opc i.arg i.len

/-- The instruction the decoder reads from a table row's bits: command words are 32 bits wide and carried
whole (`20_memory.md` R67), so bit `k` of the number is bit `k` of the word. -/
def decodeTableWord (nbits w : Nat) : Option Instr :=
  match decode (BitVec.ofNat 32 (w % 2 ^ nbits)) with
  | .ok i => some i
  | .error _ => none

end Sys2Proof
end

