-- ==== Sys2Proof/Machine/State.lean ====
section
/-! DEFINITION. The whole state of one core (`10_state.md` R20) as plain data, and the state after reset. -/

namespace Sys2Proof.Machine

/-- `G.phase` (`10_state.md` R31): the three values VBAS names. The 2-bit encoding 3 is never written and is
unreachable (`93_implementation_defined.md` U15 lets a model use a three-valued type). -/
inductive Phase where
  | invalid
  | aad
  | cipher
  deriving DecidableEq, Repr

/-- The seven fault causes (`60_exceptions.md` R301). A command that raises one TAKES it (R306): the core goes to
a next state, so these are not stops of the model. -/
inductive FaultCause where
  | fOpcode
  | fArg
  | fLen
  | fPseq
  | fGseqAad
  | fGseqInvalid
  | fTaglen
  deriving DecidableEq, Repr

/-- The Poly1305 context `P` (`10_state.md` R21 to R25). -/
structure PolyCtx where
  /-- accumulator limbs (R21) -/
  h : Limbs
  /-- clamped key limbs (R22) -/
  r : Limbs
  /-- additive pad (R23) -/
  s : Block
  /-- partial-block buffer (R24) -/
  buf : Block
  /-- 5-bit byte count of the buffer (R24) -/
  n : BitVec 5
  /-- context flag (R25) -/
  active : Bool
  deriving DecidableEq, Repr

/-- The GHASH context `G` (`10_state.md` R27 to R32). -/
structure GhashCtx where
  /-- hash subkey (R27) -/
  H : Block
  /-- running accumulator (R28) -/
  Y : Block
  /-- partial-block buffer (R29) -/
  buf : Block
  /-- 5-bit byte count of the buffer (R29) -/
  n : BitVec 5
  /-- authenticated-data byte count (R30) -/
  lenAad : BitVec 64
  /-- ciphertext byte count (R30) -/
  lenCt : BitVec 64
  /-- phase flag (R31) -/
  phase : Phase
  /-- multiplier backend, false = 0 portable, true = 1 carry-less (R32) -/
  backend : Bool
  deriving DecidableEq, Repr

/-- One core. The channels are queues, oldest unit first (`10_state.md` R43). -/
structure State where
  /-- Poly1305 context -/
  p : PolyCtx
  /-- GHASH context -/
  g : GhashCtx
  /-- `CFG.cap_clmul` (R40) -/
  capClmul : Bool
  /-- `FAULT` (R42) -/
  fault : Bool
  /-- `FCODE` (R42) -/
  fcode : BitVec 8
  /-- `FCMD` (R42) -/
  fcmd : Word
  /-- command words, host to core -/
  cmd : List Word
  /-- payload bytes, host to core -/
  din : List Byte
  /-- result bytes, core to host -/
  dout : List Byte
  /-- response words, core to host -/
  rsp : List Word
  deriving DecidableEq, Repr

/-- Why the machine stops. -/
inductive Fault where
  /-- Answered by `step` alone, and only while `FAULT = 1`: the core is halted and no step is enabled until reset
  (`20_memory.md` R72, `60_exceptions.md` R306). Carries the two recorded values the sideband shows. Safe: the spec
  gives such a core no step. No instruction's meaning answers it. Assumption log 3. -/
  | halted (fcode : BitVec 8) (fcmd : Word)
  deriving DecidableEq, Repr

/-- Why an instruction has no meaning. -/
inductive Refusal where
  /-- Answered by no arm of `exec` now: every row of the opcode table has its meaning. Safe. -/
  | notModelled (mnemonic : String)
  deriving DecidableEq, Repr

/-- Every register of `P` zero: what reset gives and a wipe writes (`10_state.md` R46, `40_ct_primitives.md` R134). -/
def PolyCtx.zero : PolyCtx :=
  { h := zeroLimbs, r := zeroLimbs, s := zeroBlock, buf := zeroBlock, n := 0#5, active := false }

/-- Every register of `G` zero; phase 0 is `INVALID` (`10_state.md` R46, `40_ct_primitives.md` R134). -/
def GhashCtx.zero : GhashCtx :=
  { H := zeroBlock, Y := zeroBlock, buf := zeroBlock, n := 0#5, lenAad := 0#64, lenCt := 0#64,
    phase := .invalid, backend := false }

/-- The state after a reset released with the strap at `cap` (`70_reset_and_hazards.md` R340, `10_state.md` R46). -/
def State.resetWith (cap : Bool) : State :=
  { p := PolyCtx.zero, g := GhashCtx.zero, capClmul := cap, fault := false, fcode := 0#8, fcmd := 0#32,
    cmd := [], din := [], dout := [], rsp := [] }

/-- The machine right after reset, the strap at the level this core is built with. -/
def State.reset : State := State.resetWith Config.capClmul

end Sys2Proof.Machine
end

