-- ==== Sys2Proof/Machine/Operands.lean ====
section
/-! DEFINITION. How operands are taken out of a payload and results are laid out as bytes, and the legality tests on
the two immediates (`00_scope.md` R10 to R12, `30_encoding.md` R92, R93, R100). -/

namespace Sys2Proof.Machine

/-- `lenum(B)`, the sum of `B[i] * 2^(8i)` (`00_scope.md` R12). -/
def lenum : Bytes → Nat
  | [] => 0
  | b :: bs => b.toNat + 256 * lenum bs

/-- `le32(v)`: byte `i` is `v[8i+7:8i]` (`00_scope.md` R12, `20_memory.md` R66). -/
def le32 (v : Word) : Bytes := (List.range 4).map fun i => v.extractLsb' (8 * i) 8

/-- `le64(v)` (`00_scope.md` R12). -/
def le64 (v : BitVec 64) : Bytes := (List.range 8).map fun i => v.extractLsb' (8 * i) 8

/-- `be64(v)`: byte `i` is `v[63-8i:56-8i]` (`00_scope.md` R12). -/
def be64 (v : BitVec 64) : Bytes := (List.range 8).map fun i => v.extractLsb' (56 - 8 * i) 8

/-- `zeros(n)` (`00_scope.md` R12). -/
def zeros (n : Nat) : Bytes := List.replicate n 0#8

/-- `D[i .. i+n-1]` (`00_scope.md` R11). -/
def slice (D : Bytes) (i n : Nat) : Bytes := (D.drop i).take n

/-- A 32-bit operand: `lenum` of 4 payload bytes from index `i` (`30_encoding.md` R100). -/
def wordAt (D : Bytes) (i : Nat) : Word := BitVec.ofNat 32 (lenum (slice D i 4))

/-- Sixteen payload bytes from index `i`, as registers. -/
def blockAt (D : Bytes) (i : Nat) : Block := Vector.ofFn fun j => D.getD (i + j.val) 0#8

/-- A byte string as seventeen limbs; byte `i` is limb `i` (`20_memory.md` R63). -/
def limbsOf (B : Bytes) : Limbs := Vector.ofFn fun j => B.getD j.val 0#8

/-- Bytewise xor of two blocks (`43_ghash.md` R211). -/
def xorBlock (A B : Block) : Block := Vector.ofFn fun j => A[j] ^^^ B[j]

/-- `ARG` must be 0 where it is unused (`30_encoding.md` R92). -/
def argUnused (arg : BitVec 8) : Bool := arg == 0#8

/-- `lo ≤ ARG ≤ hi`, unsigned (`30_encoding.md` R92). -/
def argIn (lo hi : Nat) (arg : BitVec 8) : Bool := decide (lo ≤ arg.toNat) && decide (arg.toNat ≤ hi)

/-- `LEN` must be exactly `n` (`30_encoding.md` R93). -/
def lenIs (n : Nat) (len : BitVec 16) : Bool := len.toNat == n

/-- `LEN` of CTEQ: even and at least 2 (`30_encoding.md` R93). -/
def lenPairs (len : BitVec 16) : Bool := len.toNat % 2 == 0 && decide (2 ≤ len.toNat)

/-- CTEQ's string length, `LEN div 2` (`30_encoding.md` R100). -/
def halfLen (len : BitVec 16) : Nat := len.toNat / 2

end Sys2Proof.Machine
end

