-- ==== Sys2Proof/Machine/Flags.lean ====
section
/-! DEFINITION. The status flags and the words made of them: phase encoding, the three status registers, fault codes,
completion codes and response words (`10_state.md` R31, R37 to R42; `30_encoding.md` R96, R97). The core has no
arithmetic condition codes (R37). -/

namespace Sys2Proof.Machine

/-- The 2-bit encoding of `G.phase` (`10_state.md` R31). -/
def Phase.bits : Phase → BitVec 2
  | .invalid => 0#2
  | .aad => 1#2
  | .cipher => 2#2

/-- `FCODE` of each cause (`60_exceptions.md` R301). -/
def FaultCause.code : FaultCause → BitVec 8
  | .fOpcode => 1#8
  | .fArg => 2#8
  | .fLen => 3#8
  | .fPseq => 4#8
  | .fGseqAad => 5#8
  | .fGseqInvalid => 6#8
  | .fTaglen => 7#8

/-- `CODE` `OK` (`30_encoding.md` R97). -/
def codeOk : BitVec 8 := 0x00#8

/-- `CODE` `AUTH_FAIL`, CTEQ only (`30_encoding.md` R97). -/
def codeAuthFail : BitVec 8 := 0x01#8

/-- `CODE` of a fault, `0x80 | cause` (`30_encoding.md` R97, `60_exceptions.md` R301). -/
def codeFault (c : FaultCause) : BitVec 8 := 0x80#8 ||| c.code

/-- A response word: `OPC` in 31:24, zero in 23:8, `CODE` in 7:0 (`30_encoding.md` R96). -/
def response (opc code : BitVec 8) : Word := (opc.setWidth 32 <<< 24) ||| code.setWidth 32

/-- `SR0` `ID`, the constant "VMC1" (`10_state.md` R39). -/
def idWord : Word := 0x564D4331#32

/-- `SR1` `CFG`: bit 0 `cap_clmul`, bits 31:1 zero (`10_state.md` R40). -/
def cfgWord (s : State) : Word := (BitVec.ofBool s.capClmul).setWidth 32

/-- `SR2` `STATUS`: reserved 31:14, `G_N` 13:9, `P_N` 8:4, `G_BACKEND` 3, `G_PHASE` 2:1, `P_ACTIVE` 0
(`10_state.md` R41). -/
def statusWord (s : State) : Word :=
  (s.g.n.setWidth 32 <<< 9) ||| (s.p.n.setWidth 32 <<< 4) ||| ((BitVec.ofBool s.g.backend).setWidth 32 <<< 3)
    ||| (s.g.phase.bits.setWidth 32 <<< 1) ||| (BitVec.ofBool s.p.active).setWidth 32

/-- The status register of a number; 3 to 255 are not registers (`10_state.md` R38). -/
def statusReg (k : BitVec 8) (s : State) : Option Word :=
  match k.toNat with
  | 0 => some idWord
  | 1 => some (cfgWord s)
  | 2 => some (statusWord s)
  | _ => none

/-- The sideband outputs `FAULT_O`, `FCODE_O`, `FCMD_O`, driven at all times (`10_state.md` R42, `20_memory.md` R61). -/
def State.sideband (s : State) : Bool × BitVec 8 × Word := (s.fault, s.fcode, s.fcmd)

end Sys2Proof.Machine
end

