-- ==== Sys2Proof/Machine/Ops.lean ====
section
/-! DEFINITION. The operations every command is made of: the channel primitives, the two wipes, taking a fault,
leaving the fault state, and the issue of one command in the order of `30_encoding.md` R95. -/

namespace Sys2Proof.Machine

/-- `CmdPop()`: the oldest command word leaves CMD (`00_scope.md` R13). -/
def State.popCmd (s : State) : State := { s with cmd := s.cmd.tail }

/-- `DinPop(n)`, its effect on DIN: the oldest `n` bytes leave (`00_scope.md` R13). -/
def State.dropDin (n : Nat) (s : State) : State := { s with din := s.din.drop n }

/-- `DoutPush(B)` (`00_scope.md` R13). -/
def State.pushDout (B : Bytes) (s : State) : State := { s with dout := s.dout ++ B }

/-- `RspPush(w)` (`00_scope.md` R13). -/
def State.pushRsp (w : Word) (s : State) : State := { s with rsp := s.rsp ++ [w] }

/-- Write the Poly1305 context. -/
def State.setP (p : PolyCtx) (s : State) : State := { s with p := p }

/-- Write the GHASH context. -/
def State.setG (g : GhashCtx) (s : State) : State := { s with g := g }

/-- `WipeP()` (`40_ct_primitives.md` R134): every register of `P` is written with zero. -/
def State.wipeP (s : State) : State := s.setP PolyCtx.zero

/-- `WipeG()` (`40_ct_primitives.md` R134): every register of `G` is written with zero. -/
def State.wipeG (s : State) : State := s.setG GhashCtx.zero

/-- Write the fault record (`60_exceptions.md` R306, first three lines). -/
def State.recordFault (c : FaultCause) (w : Word) (s : State) : State :=
  { s with fcmd := w, fcode := c.code, fault := true }

/-- Fault entry, `raise Fault(c)` for the command word `w` (`60_exceptions.md` R306): record, wipe both contexts, push
the fault response. The command word has been popped already and nothing else has (R305). There is no handler and no
vector: the core halts. -/
def State.takeFault (c : FaultCause) (w : Word) (s : State) : State :=
  (((s.recordFault c w).wipeP).wipeG).pushRsp (response (opcOf w) (codeFault c))

/-- The input `RESET`, released with the strap at `cap`: the only way out of the fault state (`60_exceptions.md` R307)
and the same from every state (`70_reset_and_hazards.md` R340). There is no other return from a fault. -/
def State.resetInput (cap : Bool) (_s : State) : State := State.resetWith cap

/-- The first cause whose test fails, in the order written (`60_exceptions.md` R304). -/
def firstFault : List (Bool × FaultCause) → Option FaultCause
  | [] => none
  | (legal, c) :: rest => if legal then firstFault rest else some c

/-- Issue one command whose word is `w` and whose payload is `len` bytes (`30_encoding.md` R95 steps 2 to 5). If a
check fails, the fault is taken with no payload read. If DIN is short the core holds: nothing is popped and nothing
changes (`20_memory.md` R72, assumption log 2). Otherwise the word and the payload are popped and the command's rule
runs on the payload. -/
def issue (w : Word) (len : BitVec 16) (check : Option FaultCause) (s : State) (rule : Bytes → State → State) :
    Host.Outcome State Fault Refusal :=
  match check with
  | some c => .next (s.popCmd.takeFault c w)
  | none =>
    if s.din.length < len.toNat then .next s
    else .next (rule (s.din.take len.toNat) (s.popCmd.dropDin len.toNat))

end Sys2Proof.Machine
end

