-- ==== Sys2Proof/Machine/ConstantTime.lean ====
section
/-! DEFINITION. The constant-time primitives and the commands CTMASK, CTSEL, CTEQ, WIPE (`40_ct_primitives.md`). -/

namespace Sys2Proof.Machine

/-- `ct_mask32(x, y)` by the branch-free circuit of `40_ct_primitives.md` R122. -/
def ctMask32 (x y : Word) : Word :=
  let d := x ^^^ y
  let z := ~~~d &&& (d - 1#32)
  0#32 - (z >>> 31)

/-- `ct_sel32(m, a, b)` (`40_ct_primitives.md` R123). -/
def ctSel32 (m a b : Word) : Word := (a &&& m) ||| (b &&& ~~~m)

/-- The running difference of `ct_eq`'s full-length scan (`40_ct_primitives.md` R124). -/
def ctDiff (d : Byte) : Bytes → Bytes → Byte
  | a :: as, b :: bs => ctDiff (d ||| (a ^^^ b)) as bs
  | _, _ => d

/-- `ct_eq(a, b)` for two strings of one length (`40_ct_primitives.md` R124). -/
def ctEq (a b : Bytes) : Bool := ctDiff 0#8 a b == 0#8

/-- Checks of CTMASK (`60_exceptions.md` R303). -/
def ctmaskCheck (arg : BitVec 8) (len : BitVec 16) : Option FaultCause :=
  firstFault [(argUnused arg, .fArg), (lenIs 8 len, .fLen)]

/-- CTMASK (`40_ct_primitives.md` R126). -/
def execCtmask (arg : BitVec 8) (len : BitVec 16) (s : State) : Host.Outcome State Fault Refusal :=
  issue (encode (.ctmask arg len)) len (ctmaskCheck arg len) s fun D t =>
    (t.pushDout (le32 (ctMask32 (wordAt D 0) (wordAt D 4)))).pushRsp (response 0x10#8 codeOk)

/-- Checks of CTSEL (`60_exceptions.md` R303). -/
def ctselCheck (arg : BitVec 8) (len : BitVec 16) : Option FaultCause :=
  firstFault [(argUnused arg, .fArg), (lenIs 12 len, .fLen)]

/-- CTSEL (`40_ct_primitives.md` R128). -/
def execCtsel (arg : BitVec 8) (len : BitVec 16) (s : State) : Host.Outcome State Fault Refusal :=
  issue (encode (.ctsel arg len)) len (ctselCheck arg len) s fun D t =>
    (t.pushDout (le32 (ctSel32 (wordAt D 0) (wordAt D 4) (wordAt D 8)))).pushRsp (response 0x11#8 codeOk)

/-- Checks of CTEQ (`60_exceptions.md` R303). -/
def cteqCheck (arg : BitVec 8) (len : BitVec 16) : Option FaultCause :=
  firstFault [(argUnused arg, .fArg), (lenPairs len, .fLen)]

/-- CTEQ (`40_ct_primitives.md` R130): the result is the completion code, never DOUT. -/
def execCteq (arg : BitVec 8) (len : BitVec 16) (s : State) : Host.Outcome State Fault Refusal :=
  issue (encode (.cteq arg len)) len (cteqCheck arg len) s fun D t =>
    t.pushRsp (response 0x12#8
      (if ctEq (slice D 0 (halfLen len)) (slice D (halfLen len) (halfLen len)) then codeOk else codeAuthFail))

/-- Checks of WIPE (`60_exceptions.md` R303). -/
def wipeCheck (arg : BitVec 8) (len : BitVec 16) : Option FaultCause :=
  firstFault [(argIn 1 3 arg, .fArg), (lenIs 0 len, .fLen)]

/-- The contexts a WIPE selects: `ARG[0]` the Poly1305 one, `ARG[1]` the GHASH one (`40_ct_primitives.md` R135). -/
def State.wipeSelected (arg : BitVec 8) (s : State) : State :=
  let s := if arg.getLsbD 0 then s.wipeP else s
  if arg.getLsbD 1 then s.wipeG else s

/-- WIPE (`40_ct_primitives.md` R135). -/
def execWipe (arg : BitVec 8) (len : BitVec 16) (s : State) : Host.Outcome State Fault Refusal :=
  issue (encode (.wipe arg len)) len (wipeCheck arg len) s fun _ t =>
    (t.wipeSelected arg).pushRsp (response 0x13#8 codeOk)

end Sys2Proof.Machine
end

