-- ==== Sys2Proof/Machine/Blockwise.lean ====
section
/-! DEFINITION. The BlockwiseAccumulator `BWA`, shared by PUPD, GAAD and GCIPH (`41_blockwise.md`). -/

namespace Sys2Proof.Machine

/-- What one run of `BWA` leaves: the blocks it handed to the callback, in order, then the buffer and the count. -/
structure BwaResult where
  blocks : List Block
  buf : Block
  n : Nat
  deriving DecidableEq, Repr

/-- `buf[n .. n+|xs|-1] <- xs`; the other bytes keep their values (`41_blockwise.md` R152, R157). -/
def overwrite (buf : Block) (n : Nat) (xs : Bytes) : Block :=
  Vector.ofFn fun j => if n ≤ j.val ∧ j.val < n + xs.length then xs.getD (j.val - n) 0#8 else buf[j]

/-- Step (b): the whole blocks at the front of the payload (`41_blockwise.md` R152). -/
def wholeBlocks (D : Bytes) : List Block := (List.range (D.length / 16)).map fun k => blockAt D (16 * k)

/-- What step (b) leaves: fewer than 16 bytes. -/
def remainderOf (D : Bytes) : Bytes := D.drop (16 * (D.length / 16))

/-- Steps (b) and (c) on what is left of the payload, the count being `n`. -/
def bwaRest (buf : Block) (n : Nat) (D : Bytes) : BwaResult :=
  { blocks := wholeBlocks D
    buf := overwrite buf n (remainderOf D)
    n := n + (remainderOf D).length }

/-- `BWA(buf, n, D, Block)` (`41_blockwise.md` R152). The callback is applied by the engine to `blocks`, in order. -/
def bwa (buf : Block) (n : Nat) (D : Bytes) : BwaResult :=
  if 0 < n ∧ 0 < D.length then
    let t := min (16 - n) D.length
    let buf := overwrite buf n (D.take t)
    if n + t = 16 then
      let r := bwaRest buf 0 (D.drop t)
      { r with blocks := buf :: r.blocks }
    else bwaRest buf (n + t) (D.drop t)
  else bwaRest buf n D

end Sys2Proof.Machine
end

