-- ==== Sys2Proof/Machine/Ghash.lean ====
section
/-! DEFINITION. The GHASH engine: the two field multipliers, the phase machine and the commands GINIT, GAAD, GCIPH, GFIN,
GTAG, GFMUL (`43_ghash.md`). -/

namespace Sys2Proof.Machine

/-- `bit(B, i)`: bit 0 is the most significant bit of byte 0 (`43_ghash.md` R210). -/
def blockBit (B : Block) (i : Nat) : Bool := (B.toList.getD (i / 8) 0#8).getLsbD (7 - i % 8)

/-- `beint(B)`: byte 0 most significant (`43_ghash.md` R212). -/
def beint (B : Block) : BitVec 128 := B.toList.foldl (fun v b => (v <<< 8) ||| b.setWidth 128) 0#128

/-- `blk_be(v)`, the inverse of `beint` (`43_ghash.md` R212). -/
def blkBe (v : BitVec 128) : Block := Vector.ofFn fun j => v.extractLsb' (8 * (15 - j.val)) 8

/-- `pint(B)`: `beint(B)` with its bits reversed end to end, so bit `i` is the coefficient of `x^i`
(`43_ghash.md` R212). -/
def pint (B : Block) : BitVec 128 := (beint B).reverse

/-- `blk_p(v)`, the inverse of `pint` (`43_ghash.md` R212). -/
def blkP (v : BitVec 128) : Block := blkBe v.reverse

/-- `mask(b)` at width `w`: all ones for 1, zero for 0 (`43_ghash.md` R213, R214). -/
def maskOf (w : Nat) (b : Bool) : BitVec w := 0#w - (BitVec.ofBool b).setWidth w

/-- `R`, the reduction constant of the bit-serial multiplier (`43_ghash.md` R213). -/
def gmulR : BitVec 128 := 0xE1#128 <<< 120

/-- One iteration of the bit-serial multiplier on `(Z, V)` (`43_ghash.md` R213). -/
def gmul0Step (y : BitVec 128) (zv : BitVec 128 × BitVec 128) (i : Nat) : BitVec 128 × BitVec 128 :=
  (zv.1 ^^^ (zv.2 &&& maskOf 128 (y.getLsbD (127 - i))),
   (zv.2 >>> 1) ^^^ (gmulR &&& maskOf 128 (zv.2.getLsbD 0)))

/-- `GMul0(X, Y)`, backend 0: all 128 iterations always run (`43_ghash.md` R213). -/
def gMul0 (X Y : Block) : Block :=
  blkBe ((List.range 128).foldl (gmul0Step (beint Y)) (0#128, beint X)).1

/-- `clmul64(u, v)`, the carry-less product (`43_ghash.md` R215). -/
def clmul64 (u v : BitVec 64) : BitVec 128 :=
  (List.range 64).foldl (fun c i => c ^^^ ((u.setWidth 128 <<< i) &&& maskOf 128 (v.getLsbD i))) 0#128

/-- The 255-bit product from four carry-less products (`43_ghash.md` R214). -/
def clmul128 (a b : BitVec 128) : BitVec 256 :=
  let a0 := a.setWidth 64
  let a1 := (a >>> 64).setWidth 64
  let b0 := b.setWidth 64
  let b1 := (b >>> 64).setWidth 64
  (clmul64 a0 b0).setWidth 256
    ^^^ (((clmul64 a0 b1) ^^^ (clmul64 a1 b0)).setWidth 256 <<< 64)
    ^^^ ((clmul64 a1 b1).setWidth 256 <<< 128)

/-- `G`, the field polynomial as a number, `2^128 + 0x87` (`43_ghash.md` R214). -/
def gmulG : BitVec 256 := (1#256 <<< 128) ||| 0x87#256

/-- One reduction pass, clearing bit `k` (`43_ghash.md` R214). -/
def gmul1Step (c : BitVec 256) (k : Nat) : BitVec 256 :=
  c ^^^ ((gmulG <<< (k - 128)) &&& maskOf 256 (c.getLsbD k))

/-- The reduction, `k` from 254 down to 128 (`43_ghash.md` R214). -/
def gmul1Reduce (c : BitVec 256) : BitVec 256 := ((List.range 127).map (254 - ·)).foldl gmul1Step c

/-- `GMul1(X, Y)`, backend 1 (`43_ghash.md` R214). -/
def gMul1 (X Y : Block) : Block := blkP ((gmul1Reduce (clmul128 (pint X) (pint Y))).setWidth 128)

/-- `GMul(b, X, Y)`: both backends are in every core (`43_ghash.md` R217). -/
def gMul (b : Bool) (X Y : Block) : Block := if b then gMul1 X Y else gMul0 X Y

/-- The context GINIT makes from a subkey and the latched strap (`43_ghash.md` R222). -/
def GhashCtx.init (Hk : Block) (cap : Bool) : GhashCtx :=
  { GhashCtx.zero with H := Hk, backend := cap, phase := .aad }

/-- `GBlock(X)` (`43_ghash.md` R218). -/
def GhashCtx.block (g : GhashCtx) (X : Block) : GhashCtx := { g with Y := gMul g.backend (xorBlock g.Y X) g.H }

/-- The buffer with `buf[n .. 15]` zeroed (`43_ghash.md` R219). -/
def zeroFrom (buf : Block) (n : Nat) : Block := Vector.ofFn fun j => if n ≤ j.val then 0#8 else buf[j]

/-- `GPad()` (`43_ghash.md` R219). -/
def GhashCtx.pad (g : GhashCtx) : GhashCtx :=
  if 0 < g.n.toNat then
    let buf := zeroFrom g.buf g.n.toNat
    { ({ g with buf := buf }).block buf with n := 0#5 }
  else g

/-- `G.n <- BWA(G.buf, G.n, D, GBlock)` (`43_ghash.md` R223, R224). -/
def GhashCtx.absorb (D : Bytes) (g : GhashCtx) : GhashCtx :=
  let r := bwa g.buf g.n.toNat D
  { r.blocks.foldl GhashCtx.block g with buf := r.buf, n := BitVec.ofNat 5 r.n }

/-- GAAD's change of the context: count, then absorb (`43_ghash.md` R223, R228). -/
def GhashCtx.addAad (len : BitVec 16) (D : Bytes) (g : GhashCtx) : GhashCtx :=
  ({ g with lenAad := g.lenAad + len.setWidth 64 }).absorb D

/-- GCIPH's move out of `AAD`: pad, then change the phase (`43_ghash.md` R224). -/
def GhashCtx.enterCipher (g : GhashCtx) : GhashCtx :=
  if g.phase = .aad then { g.pad with phase := .cipher } else g

/-- GCIPH's change of the context (`43_ghash.md` R224, R228). -/
def GhashCtx.addCipher (len : BitVec 16) (D : Bytes) (g : GhashCtx) : GhashCtx :=
  let g := g.enterCipher
  ({ g with lenCt := g.lenCt + len.setWidth 64 }).absorb D

/-- The final length block: two big-endian bit counts, times 8 modulo `2^64` (`43_ghash.md` R225, R228). -/
def GhashCtx.lengthBlock (g : GhashCtx) : Block := blockAt (be64 (8#64 * g.lenAad) ++ be64 (8#64 * g.lenCt)) 0

/-- The raw GHASH value GFIN pushes (`43_ghash.md` R225). -/
def GhashCtx.value (g : GhashCtx) : Bytes := ((g.pad).block g.lengthBlock).Y.toList

/-- Checks of GINIT (`60_exceptions.md` R303). -/
def ginitCheck (arg : BitVec 8) (len : BitVec 16) : Option FaultCause :=
  firstFault [(argUnused arg, .fArg), (lenIs 16 len, .fLen)]

/-- GINIT (`43_ghash.md` R222). -/
def execGinit (arg : BitVec 8) (len : BitVec 16) (s : State) : Host.Outcome State Fault Refusal :=
  issue (encode (.ginit arg len)) len (ginitCheck arg len) s fun Hk t =>
    (t.wipeG.setG (GhashCtx.init (blockAt Hk 0) t.capClmul)).pushRsp (response 0x30#8 codeOk)

/-- Checks of GAAD (`43_ghash.md` R223, `60_exceptions.md` R303). -/
def gaadCheck (arg : BitVec 8) (s : State) : Option FaultCause :=
  firstFault [(argUnused arg, .fArg), (s.g.phase != .invalid, .fGseqInvalid), (s.g.phase != .cipher, .fGseqAad)]

/-- GAAD (`43_ghash.md` R223). -/
def execGaad (arg : BitVec 8) (len : BitVec 16) (s : State) : Host.Outcome State Fault Refusal :=
  issue (encode (.gaad arg len)) len (gaadCheck arg s) s fun D t =>
    (t.setG (t.g.addAad len D)).pushRsp (response 0x31#8 codeOk)

/-- Checks of GCIPH (`43_ghash.md` R224, `60_exceptions.md` R303). -/
def gciphCheck (arg : BitVec 8) (s : State) : Option FaultCause :=
  firstFault [(argUnused arg, .fArg), (s.g.phase != .invalid, .fGseqInvalid)]

/-- GCIPH (`43_ghash.md` R224). -/
def execGciph (arg : BitVec 8) (len : BitVec 16) (s : State) : Host.Outcome State Fault Refusal :=
  issue (encode (.gciph arg len)) len (gciphCheck arg s) s fun D t =>
    (t.setG (t.g.addCipher len D)).pushRsp (response 0x32#8 codeOk)

/-- Checks of GFIN (`43_ghash.md` R225, `60_exceptions.md` R303). -/
def gfinCheck (arg : BitVec 8) (len : BitVec 16) (s : State) : Option FaultCause :=
  firstFault [(argUnused arg, .fArg), (lenIs 0 len, .fLen), (s.g.phase != .invalid, .fGseqInvalid)]

/-- GFIN (`43_ghash.md` R225). -/
def execGfin (arg : BitVec 8) (len : BitVec 16) (s : State) : Host.Outcome State Fault Refusal :=
  issue (encode (.gfin arg len)) len (gfinCheck arg len s) s fun _ t =>
    ((t.pushDout t.g.value).wipeG).pushRsp (response 0x33#8 codeOk)

/-- Checks of GTAG: an illegal tag length is `F_TAGLEN`, before `LEN` (`43_ghash.md` R226). -/
def gtagCheck (arg : BitVec 8) (len : BitVec 16) : Option FaultCause :=
  firstFault [(argIn 2 16 arg, .fTaglen), (lenIs 32 len, .fLen)]

/-- GTAG: mask, then keep the first `ntag` bytes (`43_ghash.md` R226). -/
def execGtag (arg : BitVec 8) (len : BitVec 16) (s : State) : Host.Outcome State Fault Refusal :=
  issue (encode (.gtag arg len)) len (gtagCheck arg len) s fun D t =>
    (t.pushDout ((xorBlock (blockAt D 0) (blockAt D 16)).toList.take arg.toNat)).pushRsp (response 0x34#8 codeOk)

/-- Checks of GFMUL (`43_ghash.md` R227). -/
def gfmulCheck (arg : BitVec 8) (len : BitVec 16) : Option FaultCause :=
  firstFault [(argIn 0 1 arg, .fArg), (lenIs 32 len, .fLen)]

/-- GFMUL: one multiplication on the backend `ARG[0]` (`43_ghash.md` R227, `30_encoding.md` R100). -/
def execGfmul (arg : BitVec 8) (len : BitVec 16) (s : State) : Host.Outcome State Fault Refusal :=
  issue (encode (.gfmul arg len)) len (gfmulCheck arg len) s fun D t =>
    (t.pushDout (gMul (arg.getLsbD 0) (blockAt D 0) (blockAt D 16)).toList).pushRsp (response 0x35#8 codeOk)

end Sys2Proof.Machine
end

