-- ==== Sys2Proof/Machine/Poly1305.lean ====
section
/-! DEFINITION. The Poly1305 engine: limb arithmetic and the commands PINIT, PUPD, PFIN (`42_poly1305.md`).
Intermediate values are unbounded naturals, which R187 allows: no 32-bit intermediate ever wraps. -/

namespace Sys2Proof.Machine

/-- `val(x)`, the number seventeen limbs stand for (`42_poly1305.md` R171). -/
def val (x : Limbs) : Nat := lenum x.toList

/-- Limb `k` as a number. -/
def limb (x : Limbs) (k : Nat) : Nat := (x.toList.getD k 0#8).toNat

/-- The byte masks of the clamp (`42_poly1305.md` R172). -/
def clampMask (i : Nat) : Byte :=
  if i = 3 ∨ i = 7 ∨ i = 11 ∨ i = 15 then 0x0F#8
  else if i = 4 ∨ i = 8 ∨ i = 12 then 0xFC#8
  else 0xFF#8

/-- `Clamp(K)`: limb 16 is 0 (`42_poly1305.md` R172). -/
def clamp (K : Block) : Limbs :=
  Vector.ofFn fun i => if h : i.val < 16 then K[i.val] &&& clampMask i.val else 0#8

/-- One carry pass: add the running carry, keep 8 bits, pass the rest on (`42_poly1305.md` R173, R177). The second
component is the carry out of the last limb. -/
def carryPass (c : Nat) : List Nat → Bytes × Nat
  | [] => ([], c)
  | t :: ts =>
    let u := c + t
    let r := carryPass (u >>> 8) ts
    (BitVec.ofNat 8 (u &&& 0xFF) :: r.1, r.2)

/-- `PAdd(x, c)`: limb addition, the carry out of limb 16 discarded (`42_poly1305.md` R173). -/
def pAdd (x c : Limbs) : Limbs :=
  limbsOf (carryPass 0 ((List.range 17).map fun i => limb x i + limb c i)).1

/-- The value of a full block: marker 1 at limb 16 (`42_poly1305.md` R174). -/
def fullBlock (B : Block) : Limbs := limbsOf (B.toList ++ [1#8])

/-- The value of a final short block of `m` bytes: marker 1 at limb `m`, zeros above (`42_poly1305.md` R174). -/
def shortBlock (buf : Block) (m : Nat) : Limbs := limbsOf (buf.toList.take m ++ [1#8])

/-- Limb `i` of the unreduced product; wrapped terms carry the factor 320 (`42_poly1305.md` R175, R176). -/
def mulLimb (x y : Limbs) (i : Nat) : Nat :=
  (List.range 17).foldl (fun u j =>
    if j ≤ i then u + limb x j * limb y (i - j) else u + 320 * limb x j * limb y (i + 17 - j)) 0

/-- `PMulRaw(x, y)`: seventeen unreduced limbs (`42_poly1305.md` R175). -/
def pMulRaw (x y : Limbs) : List Nat := (List.range 17).map (mulLimb x y)

/-- `PMinReduce(t)`: two carry passes; the bits above 130 come back times 5 (`42_poly1305.md` R177). -/
def pMinReduce (t : List Nat) : Limbs :=
  let first := carryPass 0 (t.take 16)
  let c := first.2 + t.getD 16 0
  let second := carryPass (5 * (c >>> 2)) (first.1.map BitVec.toNat)
  limbsOf (second.1 ++ [BitVec.ofNat 8 ((c &&& 0x03) + second.2)])

/-- The accumulator after `PAbsorb(c)` (`42_poly1305.md` R179). -/
def pAbsorb (r h c : Limbs) : Limbs := pMinReduce (pMulRaw (pAdd h c) r)

/-- `NEGP`, of value `2^136 - p` (`42_poly1305.md` R182). -/
def negP : Limbs := limbsOf ([0x05#8] ++ zeros 15 ++ [0xFC#8])

/-- `PFullReduce(x)`: subtract `p`, then select by the sign, bit 7 of limb 16 (`42_poly1305.md` R182). -/
def pFullReduce (x : Limbs) : Limbs :=
  let xsub := pAdd x negP
  let m := ctMask32 ((xsub[16] &&& 0x80#8).setWidth 32) 0x80#32
  Vector.ofFn fun i => (ctSel32 m (x[i].setWidth 32) (xsub[i].setWidth 32)).setWidth 8

/-- The context PINIT makes from a 32-byte key: `r` source, then `s` (`42_poly1305.md` R183). -/
def PolyCtx.init (K : Bytes) : PolyCtx :=
  { PolyCtx.zero with r := clamp (blockAt K 0), s := blockAt K 16, active := true }

/-- `PBlockFull(B)`, the callback of a full block (`42_poly1305.md` R179). -/
def PolyCtx.blockFull (p : PolyCtx) (B : Block) : PolyCtx := { p with h := pAbsorb p.r p.h (fullBlock B) }

/-- `P.n <- BWA(P.buf, P.n, D, PBlockFull)` (`42_poly1305.md` R184). -/
def PolyCtx.update (D : Bytes) (p : PolyCtx) : PolyCtx :=
  let r := bwa p.buf p.n.toNat D
  { r.blocks.foldl PolyCtx.blockFull p with buf := r.buf, n := BitVec.ofNat 5 r.n }

/-- `PBlockLast()`, absorbing a pending partial block (`42_poly1305.md` R181). -/
def PolyCtx.blockLast (p : PolyCtx) : PolyCtx :=
  { p with h := pAbsorb p.r p.h (shortBlock p.buf p.n.toNat), n := 0#5 }

/-- `if P.n > 0: PBlockLast()` (`42_poly1305.md` R185). -/
def PolyCtx.flush (p : PolyCtx) : PolyCtx := if 0 < p.n.toNat then p.blockLast else p

/-- The sixteen tag bytes PFIN pushes, limb 0 first (`42_poly1305.md` R185). -/
def PolyCtx.tag (p : PolyCtx) : Bytes :=
  (pAdd (pFullReduce p.flush.h) (limbsOf p.s.toList)).toList.take 16

/-- Checks of PINIT (`60_exceptions.md` R303). -/
def pinitCheck (arg : BitVec 8) (len : BitVec 16) : Option FaultCause :=
  firstFault [(argUnused arg, .fArg), (lenIs 32 len, .fLen)]

/-- PINIT (`42_poly1305.md` R183). -/
def execPinit (arg : BitVec 8) (len : BitVec 16) (s : State) : Host.Outcome State Fault Refusal :=
  issue (encode (.pinit arg len)) len (pinitCheck arg len) s fun K t =>
    (t.wipeP.setP (PolyCtx.init K)).pushRsp (response 0x20#8 codeOk)

/-- Checks of PUPD (`60_exceptions.md` R303). -/
def pupdCheck (arg : BitVec 8) (s : State) : Option FaultCause :=
  firstFault [(argUnused arg, .fArg), (s.p.active, .fPseq)]

/-- PUPD (`42_poly1305.md` R184). -/
def execPupd (arg : BitVec 8) (len : BitVec 16) (s : State) : Host.Outcome State Fault Refusal :=
  issue (encode (.pupd arg len)) len (pupdCheck arg s) s fun D t =>
    (t.setP (t.p.update D)).pushRsp (response 0x21#8 codeOk)

/-- Checks of PFIN (`60_exceptions.md` R303). -/
def pfinCheck (arg : BitVec 8) (len : BitVec 16) (s : State) : Option FaultCause :=
  firstFault [(argUnused arg, .fArg), (lenIs 0 len, .fLen), (s.p.active, .fPseq)]

/-- PFIN (`42_poly1305.md` R185). -/
def execPfin (arg : BitVec 8) (len : BitVec 16) (s : State) : Host.Outcome State Fault Refusal :=
  issue (encode (.pfin arg len)) len (pfinCheck arg len s) s fun _ t =>
    ((t.pushDout t.p.tag).wipeP).pushRsp (response 0x22#8 codeOk)

end Sys2Proof.Machine
end

