-- ==== Sys2Proof/Machine/System.lean ====
section
/-! DEFINITION. The system commands NOP and RDSR (`44_system.md`). -/

namespace Sys2Proof.Machine

/-- Checks of NOP (`60_exceptions.md` R303). -/
def nopCheck (arg : BitVec 8) (len : BitVec 16) : Option FaultCause :=
  firstFault [(argUnused arg, .fArg), (lenIs 0 len, .fLen)]

/-- NOP: an ordinary command with a response (`44_system.md` R261). -/
def execNop (arg : BitVec 8) (len : BitVec 16) (s : State) : Host.Outcome State Fault Refusal :=
  issue (encode (.nop arg len)) len (nopCheck arg len) s fun _ t => t.pushRsp (response 0x00#8 codeOk)

/-- Checks of RDSR: a number above 2 is no register (`44_system.md` R262). -/
def rdsrCheck (arg : BitVec 8) (len : BitVec 16) : Option FaultCause :=
  firstFault [(argIn 0 2 arg, .fArg), (lenIs 0 len, .fLen)]

/-- The bytes RDSR pushes (`44_system.md` R262); no byte for a number that is no register, which RDSR's check
turns away. -/
def statusBytes (k : BitVec 8) (s : State) : Bytes :=
  match statusReg k s with
  | some v => le32 v
  | none => []

/-- RDSR (`44_system.md` R262): reading has no side effect. -/
def execRdsr (arg : BitVec 8) (len : BitVec 16) (s : State) : Host.Outcome State Fault Refusal :=
  issue (encode (.rdsr arg len)) len (rdsrCheck arg len) s fun _ t =>
    (t.pushDout (statusBytes arg t)).pushRsp (response 0x01#8 codeOk)

end Sys2Proof.Machine
end

