-- ==== Sys2Proof/Machine/Dispatch.lean ====
section
/-! DEFINITION. One arm per command: the meaning of each. -/

namespace Sys2Proof.Machine

/-- Execute one decoded command whose word is the oldest in CMD. -/
def exec (i : Instr) (s : State) : Host.Outcome State Fault Refusal :=
  match i with
  | .nop arg len => Sys2Proof.Machine.execNop arg len s
  | .rdsr arg len => Sys2Proof.Machine.execRdsr arg len s
  | .ctmask arg len => Sys2Proof.Machine.execCtmask arg len s
  | .ctsel arg len => Sys2Proof.Machine.execCtsel arg len s
  | .cteq arg len => Sys2Proof.Machine.execCteq arg len s
  | .wipe arg len => Sys2Proof.Machine.execWipe arg len s
  | .pinit arg len => Sys2Proof.Machine.execPinit arg len s
  | .pupd arg len => Sys2Proof.Machine.execPupd arg len s
  | .pfin arg len => Sys2Proof.Machine.execPfin arg len s
  | .ginit arg len => Sys2Proof.Machine.execGinit arg len s
  | .gaad arg len => Sys2Proof.Machine.execGaad arg len s
  | .gciph arg len => Sys2Proof.Machine.execGciph arg len s
  | .gfin arg len => Sys2Proof.Machine.execGfin arg len s
  | .gtag arg len => Sys2Proof.Machine.execGtag arg len s
  | .gfmul arg len => Sys2Proof.Machine.execGfmul arg len s

end Sys2Proof.Machine
end

