-- ==== Sys2Proof/Machine/Step.lean ====
section
/-! DEFINITION. One step of the core: it takes the oldest word of CMD (`10_state.md` R36, `30_encoding.md` R95). -/

namespace Sys2Proof.Machine

/-- One step. A faulted core is halted (`60_exceptions.md` R306); with CMD empty the core is idle, and a step changes
nothing (`20_memory.md` R72, assumption log 2); a word that selects no row raises `F_OPCODE` (`30_encoding.md` R95 step
1); any other word is executed. -/
def step (s : State) : Host.Outcome State Fault Refusal :=
  if s.fault then .fault (.halted s.fcode s.fcmd)
  else
    match s.cmd with
    | [] => .next s
    | w :: _ =>
      match decode w with
      | .error _ => .next (s.popCmd.takeFault .fOpcode w)
      | .ok i => exec i s

/-- The state in which the next step runs the word `w`: the word is the oldest in CMD, no fault is recorded (a halted
core fetches nothing), and DIN is topped up with zero bytes to the word's `LEN` where it is shorter (a short DIN would
hold the command, `20_memory.md` R72). Assumption log 4. -/
def State.withFetchWord (s : State) (nbits w : Nat) : State :=
  let word : Word := BitVec.ofNat 32 (w % 2 ^ nbits)
  { s with
    fault := false
    fcode := 0#8
    fcmd := 0#32
    cmd := word :: s.cmd
    din := s.din ++ List.replicate ((lenOf word).toNat - s.din.length) 0#8 }

end Sys2Proof.Machine
end

