-- ==== Sys2Proof/Machine/Assembler.lean ====
section
/-! DEFINITION. The assembler's lines and the pseudo-instructions (`30_encoding.md` R101, R102). A line's printed form is
`MNEMONIC [arg] [, #len]`; here it is the parsed line. -/

namespace Sys2Proof.Machine

/-- One assembler line: `arg` stands only where the command takes one, `len` only where it is not fixed (R101); the last
eight are the pseudo-instructions (R102). -/
inductive Asm where
  | nop
  | rdsr (reg : BitVec 8)
  | ctmask
  | ctsel
  | cteq (len : BitVec 16)
  | wipe (mask : BitVec 8)
  | pinit
  | pupd (len : BitVec 16)
  | pfin
  | ginit
  | gaad (len : BitVec 16)
  | gciph (len : BitVec 16)
  | gfin
  | gtag (ntag : BitVec 8)
  | gfmul (backend : BitVec 8)
  | sync
  | pwipe
  | gwipe
  | wipeall
  | gtociph
  | rdid
  | rdcfg
  | rdstat
  deriving DecidableEq, Repr

/-- The command a line stands for; the assembler supplies a fixed `LEN` (`30_encoding.md` R101) and a pseudo-instruction
is an exact alias (R102). -/
def Asm.expand : Asm → Instr
  | .nop => .nop 0#8 0#16
  | .rdsr k => .rdsr k 0#16
  | .ctmask => .ctmask 0#8 8#16
  | .ctsel => .ctsel 0#8 12#16
  | .cteq n => .cteq 0#8 n
  | .wipe m => .wipe m 0#16
  | .pinit => .pinit 0#8 32#16
  | .pupd n => .pupd 0#8 n
  | .pfin => .pfin 0#8 0#16
  | .ginit => .ginit 0#8 16#16
  | .gaad n => .gaad 0#8 n
  | .gciph n => .gciph 0#8 n
  | .gfin => .gfin 0#8 0#16
  | .gtag n => .gtag n 32#16
  | .gfmul b => .gfmul b 32#16
  | .sync => .nop 0#8 0#16
  | .pwipe => .wipe 1#8 0#16
  | .gwipe => .wipe 2#8 0#16
  | .wipeall => .wipe 3#8 0#16
  | .gtociph => .gciph 0#8 0#16
  | .rdid => .rdsr 0#8 0#16
  | .rdcfg => .rdsr 1#8 0#16
  | .rdstat => .rdsr 2#8 0#16

/-- The word of a line, `(OPC << 24) | (ARG << 16) | LEN` (`30_encoding.md` R101). -/
def Asm.word (a : Asm) : Word := encode a.expand

end Sys2Proof.Machine
end

