-- ==== Sys2Proof/Machine/Sequencing.lean ====
section
/-! DEFINITION. When the core's next step is enabled (`20_memory.md` R72), and the micro-operations one command performs
(`40_ct_primitives.md` R125, `70_reset_and_hazards.md` R352), read off the same definitions the meanings use. -/

namespace Sys2Proof.Machine

/-- The fault a decoded command raises in a state, if any (`60_exceptions.md` R303). -/
def commandFault (i : Instr) (s : State) : Option FaultCause :=
  match i with
  | .nop arg len => nopCheck arg len
  | .rdsr arg len => rdsrCheck arg len
  | .ctmask arg len => ctmaskCheck arg len
  | .ctsel arg len => ctselCheck arg len
  | .cteq arg len => cteqCheck arg len
  | .wipe arg len => wipeCheck arg len
  | .pinit arg len => pinitCheck arg len
  | .pupd arg _ => pupdCheck arg s
  | .pfin arg len => pfinCheck arg len s
  | .ginit arg len => ginitCheck arg len
  | .gaad arg _ => gaadCheck arg s
  | .gciph arg _ => gciphCheck arg s
  | .gfin arg len => gfinCheck arg len s
  | .gtag arg len => gtagCheck arg len
  | .gfmul arg len => gfmulCheck arg len

/-- The fault a command word raises in a state, if any. -/
def wordFault (w : Word) (s : State) : Option FaultCause :=
  match decode w with
  | .error _ => some .fOpcode
  | .ok i => commandFault i s

/-- The core is halted by a fault (`60_exceptions.md` R315). -/
def State.halted (s : State) : Bool := s.fault

/-- The core is idle: no fault and nothing in CMD (`20_memory.md` R72). -/
def State.idle (s : State) : Bool := !s.fault && s.cmd.isEmpty

/-- The core's next step is enabled (`20_memory.md` R72): a command that will fault needs no DIN byte. -/
def State.enabled (s : State) : Bool :=
  match s.fault, s.cmd with
  | false, w :: _ => (wordFault w s).isSome || decide ((lenOf w).toNat ≤ s.din.length)
  | _, _ => false

/-- The core holds: a command that will not fault waits for its payload (`20_memory.md` R72). -/
def State.holding (s : State) : Bool := !s.fault && !s.cmd.isEmpty && !s.enabled

/-- One micro-operation, without the data it works on (`40_ct_primitives.md` R125): the kinds that rule lists, and the
register and byte accesses between them. Where a loop has an index, the operation carries it. Assumption log 14. -/
inductive MicroOp where
  /-- one word off CMD -/
  | cmdPop
  /-- `n` bytes off DIN -/
  | dinPop (n : Nat)
  /-- `n` bytes on DOUT -/
  | doutPush (n : Nat)
  /-- one word on RSP -/
  | rspPush
  /-- the fault record is written -/
  | recordFault
  /-- a status register is read -/
  | readStatus
  /-- one mask is generated -/
  | maskGen
  /-- one word or limb is selected -/
  | select (i : Nat)
  /-- one byte of the comparison -/
  | compareByte (i : Nat)
  /-- one byte of a block xor -/
  | xorByte (i : Nat)
  /-- one byte of a key is loaded -/
  | loadByte (i : Nat)
  /-- byte `j` of a partial-block buffer is written -/
  | bufferByte (j : Nat)
  /-- the streaming buffer calls the engine's block function (`00_scope.md` R17) -/
  | blockCallback
  /-- limb operation: limb `i` of a clamp -/
  | limbClamp (i : Nat)
  /-- limb operation: limb `i` of an addition -/
  | limbAdd (i : Nat)
  /-- limb operation: term `j` of product limb `i` -/
  | limbMul (i j : Nat)
  /-- limb operation: limb `i` of a carry pass -/
  | limbCarry (i : Nat)
  /-- limb operation: the split of limb 16 and the factor 5 -/
  | limbFold
  /-- field-multiplier iteration `i` of backend 0 -/
  | serialIter (i : Nat)
  /-- field-multiplier iteration `i` of carry-less product `part` of backend 1 -/
  | clmulIter (part i : Nat)
  /-- field-multiplier iteration: the reduction pass of backend 1 at bit `k` -/
  | reduceIter (k : Nat)
  /-- `WipeP()` -/
  | wipeP
  /-- `WipeG()` -/
  | wipeG
  deriving DecidableEq, Repr

/-- The limb operations of `PAdd` (`42_poly1305.md` R173). -/
def pAddOps : List MicroOp := (List.range 17).map .limbAdd

/-- The limb operations of `PMulRaw` (`42_poly1305.md` R175). -/
def pMulRawOps : List MicroOp := (List.range 17).flatMap fun i => (List.range 17).map (.limbMul i)

/-- The limb operations of one carry pass, one for each limb it is given. -/
def carryOps (limbs : Nat) : List MicroOp := (List.range limbs).map .limbCarry

/-- The limb operations of `PMinReduce` (`42_poly1305.md` R177). -/
def pMinReduceOps : List MicroOp := carryOps 16 ++ [.limbFold] ++ carryOps 16 ++ [.limbAdd 16]

/-- The limb operations of `PAbsorb` (`42_poly1305.md` R179). -/
def pAbsorbOps : List MicroOp := pAddOps ++ pMulRawOps ++ pMinReduceOps

/-- The operations of `PFullReduce` (`42_poly1305.md` R182). -/
def pFullReduceOps : List MicroOp := pAddOps ++ [.maskGen] ++ (List.range 17).map .select

/-- The iterations of one field multiplication: 128 on backend 0; four carry-less products and 127 reduction passes on
backend 1 (`43_ghash.md` R213 to R215, `70_reset_and_hazards.md` R352). -/
def gMulOps (backend : Bool) : List MicroOp :=
  if backend then
    ((List.range 4).flatMap fun part => (List.range 64).map (.clmulIter part))
      ++ (List.range 127).map fun k => .reduceIter (254 - k)
  else (List.range 128).map .serialIter

/-- The operations of `GBlock` (`43_ghash.md` R218). -/
def gBlockOps (backend : Bool) : List MicroOp := (List.range 16).map .xorByte ++ gMulOps backend

/-- `m` buffer bytes written from index `n` on. -/
def bufferOps (n m : Nat) : List MicroOp := (List.range m).map fun k => .bufferByte (n + k)

/-- Steps (b) and (c) of `BWA`, beside `bwaRest` (`41_blockwise.md` R152). -/
def bwaRestOps (block : List MicroOp) (n : Nat) (D : Bytes) : List MicroOp :=
  ((wholeBlocks D).flatMap fun _ => .blockCallback :: block) ++ bufferOps n (remainderOf D).length

/-- The operations of `BWA`, beside `bwa`, `block` being those of the engine's block function (`41_blockwise.md` R152). -/
def bwaOps (block : List MicroOp) (n : Nat) (D : Bytes) : List MicroOp :=
  if 0 < n ∧ 0 < D.length then
    let t := min (16 - n) D.length
    bufferOps n t
      ++ (if n + t = 16 then .blockCallback :: (block ++ bwaRestOps block 0 (D.drop t))
        else bwaRestOps block (n + t) (D.drop t))
  else bwaRestOps block n D

/-- The operations of `GPad` (`43_ghash.md` R219). -/
def padOps (g : GhashCtx) : List MicroOp :=
  if 0 < g.n.toNat then bufferOps g.n.toNat (16 - g.n.toNat) ++ gBlockOps g.backend else []

/-- The operations of a command that completes, between its payload pop and its response. -/
def bodyOps (i : Instr) (s : State) (D : Bytes) : List MicroOp :=
  match i with
  | .nop _ _ => []
  | .rdsr arg _ => [.readStatus, .doutPush (statusBytes arg s).length]
  | .ctmask _ _ => [.maskGen, .doutPush 4]
  | .ctsel _ _ => [.select 0, .doutPush 4]
  | .cteq _ len => (List.range (slice D 0 (halfLen len)).length).map .compareByte
  | .wipe arg _ => (if arg.getLsbD 0 then [.wipeP] else []) ++ (if arg.getLsbD 1 then [.wipeG] else [])
  | .pinit _ _ => .wipeP :: ((List.range 17).map .limbClamp ++ (List.range 16).map .loadByte)
  | .pupd _ _ => bwaOps pAbsorbOps s.p.n.toNat D
  | .pfin _ _ =>
    (if 0 < s.p.n.toNat then pAbsorbOps else []) ++ pFullReduceOps ++ pAddOps ++ [.doutPush s.p.tag.length, .wipeP]
  | .ginit _ _ => .wipeG :: (List.range 16).map .loadByte
  | .gaad _ _ => bwaOps (gBlockOps s.g.backend) s.g.n.toNat D
  | .gciph _ _ =>
    (if s.g.phase = .aad then padOps s.g else [])
      ++ bwaOps (gBlockOps s.g.enterCipher.backend) s.g.enterCipher.n.toNat D
  | .gfin _ _ => padOps s.g ++ gBlockOps s.g.pad.backend ++ [.doutPush s.g.value.length, .wipeG]
  | .gtag arg _ =>
    (List.range 16).map .xorByte
      ++ [.doutPush ((xorBlock (blockAt D 0) (blockAt D 16)).toList.take arg.toNat).length]
  | .gfmul arg _ =>
    gMulOps (arg.getLsbD 0)
      ++ [.doutPush (gMul (arg.getLsbD 0) (blockAt D 0) (blockAt D 16)).toList.length]

/-- The operations of fault entry (`60_exceptions.md` R305, R306). -/
def faultOps : List MicroOp := [.cmdPop, .recordFault, .wipeP, .wipeG, .rspPush]

/-- The operations one decoded command performs in a state: none while it holds. -/
def commandOps (i : Instr) (s : State) : List MicroOp :=
  match commandFault i s with
  | some _ => faultOps
  | none =>
    if s.din.length < i.len.toNat then []
    else .cmdPop :: .dinPop i.len.toNat :: (bodyOps i s (s.din.take i.len.toNat) ++ [.rspPush])

/-- The sequence of micro-operations any command word performs in a state, a word that selects no command included
(`40_ct_primitives.md` R125). -/
def microOps (w : Word) (s : State) : List MicroOp :=
  match decode w with
  | .error _ => faultOps
  | .ok i => commandOps i s

end Sys2Proof.Machine
end

