-- ==== Sys2Proof/Machine/HostPort.lean ====
section
/-! DEFINITION. What the host may do to the core between two steps (`00_scope.md` R15, `20_memory.md` R61): push a command
word, push payload bytes, pop a result byte, pop a response word, and drive the reset input (`State.resetInput`). -/

namespace Sys2Proof.Machine

/-- The host pushes one command word on CMD. -/
def State.pushCmd (w : Word) (s : State) : State := { s with cmd := s.cmd ++ [w] }

/-- The host pushes payload bytes on DIN. -/
def State.pushDin (B : Bytes) (s : State) : State := { s with din := s.din ++ B }

/-- The host pops the oldest result byte, a destructive read (`20_memory.md` R74). -/
def State.popDout (s : State) : Option (Byte × State) :=
  match s.dout with
  | [] => none
  | b :: rest => some (b, { s with dout := rest })

/-- The host pops the oldest response word (`20_memory.md` R74). -/
def State.popRsp (s : State) : Option (Word × State) :=
  match s.rsp with
  | [] => none
  | w :: rest => some (w, { s with rsp := rest })

end Sys2Proof.Machine
end

