-- ==== Sys2Proof/Machine/AeadHost.lean ====
section
/-! DEFINITION. The two AEAD compositions as host sequences over the core (`45_aead_host_sequences.md`). They bind the host,
not the core (R270): the host drives a core state with requests, one command at a time, and pops every result (R351). The
ciphers are the uninterpreted functions of `Sys2Proof/Config.lean` (R271). -/

namespace Sys2Proof.Machine

/-- One command the host sends, with its payload. -/
structure Request where
  line : Asm
  payload : Bytes
  deriving DecidableEq, Repr

/-- Send one request, let the core take one step, and pop its single response word and all its result bytes. No answer
when the core did not answer with exactly one response. -/
def transact (q : Request) (s : State) : Option (Word × Bytes × State) :=
  match step ((s.pushCmd q.line.word).pushDin q.payload) with
  | .next t =>
    match t.rsp with
    | [w] => some (w, t.dout, { t with rsp := [], dout := [] })
    | _ => none
  | .fault _ => none
  | .refused _ => none

/-- Send requests in order, every response being `OK` (`45_aead_host_sequences.md` R274), and join their result bytes. -/
def transactAll : List Request → State → Option (Bytes × State)
  | [], s => some ([], s)
  | q :: qs, s =>
    match transact q s with
    | none => none
    | some (w, out, t) =>
      if w.extractLsb' 0 8 = codeOk then
        match transactAll qs t with
        | none => none
        | some (out', u) => some (out ++ out', u)
      else none

/-- A byte string as `n` bytes. -/
def bytesAt (n : Nat) (B : Bytes) : Vector Byte n := Vector.ofFn fun j => B.getD j.val 0#8

/-- `CTEQ #(2 n)` on a computed and a supplied tag of `n` bytes each, and its two completions: `OK` and `AUTH_FAIL`
(`45_aead_host_sequences.md` R277, R285). The two lengths are one by type, as R276 and R286 demand: a supplied tag of
another length is no input (assumption log 20). -/
def verifyEqual {n : Nat} (a b : Vector Byte n) (s : State) : Option (Bool × State) :=
  match transact ⟨.cteq (BitVec.ofNat 16 (2 * n)), a.toList ++ b.toList⟩ s with
  | none => none
  | some (w, _, t) =>
    if w = response 0x12#8 codeOk then some (true, t)
    else if w = response 0x12#8 codeAuthFail then some (false, t)
    else none

/-- A logical input as payloads of at most 65535 bytes, one payload where it fits (`30_encoding.md` R93). -/
def payloads : Nat → Bytes → List Bytes
  | 0, D => [D]
  | fuel + 1, D => if D.length ≤ 65535 then [D] else D.take 65535 :: payloads fuel (D.drop 65535)

/-- The requests that feed a logical input, split where it is long. -/
def feed (line : BitVec 16 → Asm) (D : Bytes) : List Request :=
  (payloads D.length D).map fun c => ⟨line (BitVec.ofNat 16 c.length), c⟩

/-- The padding to the next 16-byte boundary, empty when the length is aligned (`45_aead_host_sequences.md` R273). -/
def padding (D : Bytes) : Bytes := zeros ((16 - D.length % 16) % 16)

/-- `le64(|aad|) ‖ le64(|ct|)` (`45_aead_host_sequences.md` R273). -/
def lengthBytes (aad ct : Bytes) : Bytes := le64 (BitVec.ofNat 64 aad.length) ++ le64 (BitVec.ofNat 64 ct.length)

/-- `M(aad, ct)`, the ChaCha20-Poly1305 transcript (`45_aead_host_sequences.md` R273). -/
def transcript (aad ct : Bytes) : Bytes := aad ++ padding aad ++ ct ++ padding ct ++ lengthBytes aad ct

/-- `PolyTag(otk, aad, ct)` (`45_aead_host_sequences.md` R274). -/
def polyTagRequests (otk aad ct : Bytes) : List Request :=
  [⟨.pinit, otk⟩] ++ feed .pupd aad ++ feed .pupd (padding aad) ++ feed .pupd ct ++ feed .pupd (padding ct)
    ++ feed .pupd (lengthBytes aad ct) ++ [⟨.pfin, []⟩]

/-- The tag of `PolyTag` and the core after it. -/
def polyTag (otk aad ct : Bytes) (s : State) : Option (Bytes × State) := transactAll (polyTagRequests otk aad ct) s

/-- Byte `i` of `KS20(key, nonce)`: block `i div 64` comes from the layout `le32(j) ‖ nonce`
(`45_aead_host_sequences.md` R271). -/
def ks20 (key : Vector Byte 32) (nonce : Vector Byte 12) (i : Nat) : Byte :=
  (Config.chachaBlock key (blockAt (le32 (BitVec.ofNat 32 (i / 64)) ++ nonce.toList) 0)).toList.getD (i % 64) 0#8

/-- The one-time key, keystream bytes 0 to 31 (`45_aead_host_sequences.md` R272). -/
def oneTimeKey (key : Vector Byte 32) (nonce : Vector Byte 12) : Bytes := (List.range 32).map (ks20 key nonce)

/-- Xor with a keystream from byte `base` on (`45_aead_host_sequences.md` R275, R282). -/
def xorStream (ks : Nat → Byte) (base : Nat) (D : Bytes) : Bytes :=
  (List.range D.length).map fun i => D.getD i 0#8 ^^^ ks (base + i)

/-- ChaCha20-Poly1305 encryption: ciphertext and 16-byte tag (`45_aead_host_sequences.md` R275, R276). -/
def chachaSeal (key : Vector Byte 32) (nonce : Vector Byte 12) (aad pt : Bytes) (s : State) :
    Option ((Bytes × Vector Byte 16) × State) :=
  let ct := xorStream (ks20 key nonce) 64 pt
  match polyTag (oneTimeKey key nonce) aad ct s with
  | none => none
  | some (tag, t) => some ((ct, bytesAt 16 tag), t)

/-- What the host of ChaCha20-Poly1305 holds while it opens, and when it returns (`45_aead_host_sequences.md` R277). -/
structure ChachaHost where
  /-- success, or authentication failure -/
  ok : Bool
  /-- the output buffer -/
  out : Bytes
  /-- the one-time key -/
  otk : Bytes
  /-- the keystream bytes generated so far -/
  ks : Bytes
  deriving DecidableEq, Repr

/-- Before the comparison: the output buffer zeroed, keystream block 0 generated for the one-time key, no payload keystream
(`45_aead_host_sequences.md` R272, R277; that no more than block 0 is generated is assumption log 15). -/
def ChachaHost.start (key : Vector Byte 32) (nonce : Vector Byte 12) (ct : Bytes) : ChachaHost :=
  { ok := false, out := zeros ct.length, otk := oneTimeKey key nonce, ks := (List.range 64).map (ks20 key nonce) }

/-- After `OK`: the payload keystream is generated and the ciphertext decrypted into the output buffer
(`45_aead_host_sequences.md` R277). What the host does with its key bytes on success is not stated: they stay
(assumption log 15). -/
def ChachaHost.decrypt (key : Vector Byte 32) (nonce : Vector Byte 12) (ct : Bytes) (m : ChachaHost) : ChachaHost :=
  { m with
    ok := true
    out := xorStream (ks20 key nonce) 64 ct
    ks := (List.range (64 + ct.length)).map (ks20 key nonce) }

/-- After `AUTH_FAIL`: the output buffer all zero, the one-time key and the keystream erased, failure
(`45_aead_host_sequences.md` R277). -/
def ChachaHost.fail (m : ChachaHost) : ChachaHost :=
  { ok := false, out := zeros m.out.length, otk := zeros m.otk.length, ks := zeros m.ks.length }

/-- ChaCha20-Poly1305 decryption: the comparison comes first, and plaintext is made only after `OK`
(`45_aead_host_sequences.md` R276, R277). No answer when the core did not answer. -/
def chachaOpen (key : Vector Byte 32) (nonce : Vector Byte 12) (aad ct : Bytes) (tag : Vector Byte 16) (s : State) :
    Option (ChachaHost × State) :=
  let m := ChachaHost.start key nonce ct
  match polyTag m.otk aad ct s with
  | none => none
  | some (tag', t) =>
    match verifyEqual (bytesAt 16 tag') tag t with
    | none => none
    | some (true, u) => some (m.decrypt key nonce ct, u)
    | some (false, u) => some (m.fail, u)

/-- `inc32(B)`: the last four bytes are a big-endian counter modulo `2^32` (`45_aead_host_sequences.md` R271). -/
def inc32 (B : Block) : Block :=
  let c : Word := BitVec.ofNat 32 (lenum [B[15], B[14], B[13], B[12]] + 1)
  Vector.ofFn fun j => if j.val < 12 then B[j] else c.extractLsb' (8 * (15 - j.val)) 8

/-- `inc32` applied `j` times. -/
def inc32Times : Nat → Block → Block
  | 0, B => B
  | j + 1, B => inc32 (inc32Times j B)

/-- Byte `i` of `CTR(K, Y0)` (`45_aead_host_sequences.md` R271). -/
def ctrStream (K : BlockKey) (Y0 : Block) (i : Nat) : Byte :=
  (Config.blockEncrypt K (inc32Times (i / 16) Y0)).toList.getD (i % 16) 0#8

/-- The subkey, `E(K, zeros(16))` (`45_aead_host_sequences.md` R280). -/
def gcmSubkey (K : BlockKey) : Block := Config.blockEncrypt K zeroBlock

/-- The initial counter block: the nonce and `00 00 00 01` for 12 bytes, else its GHASH as ciphertext with no associated
data (`45_aead_host_sequences.md` R281). -/
def gcmY0 (H : Block) (nonce : Bytes) (s : State) : Option (Block × State) :=
  if nonce.length = 12 then some (blockAt (nonce ++ [0#8, 0#8, 0#8, 1#8]) 0, s)
  else
    match transactAll ([⟨.ginit, H.toList⟩] ++ feed .gciph nonce ++ [⟨.gfin, []⟩]) s with
    | none => none
    | some (out, t) => some (blockAt out 0, t)

/-- `GcmTag(H, e_Y0, aad, ct, ntag)` (`45_aead_host_sequences.md` R283): the raw GHASH value travels through the host. -/
def gcmTag (H mask : Block) (aad ct : Bytes) (ntag : BitVec 8) (s : State) : Option (Bytes × State) :=
  match transactAll ([⟨.ginit, H.toList⟩] ++ feed .gaad aad ++ feed .gciph ct ++ [⟨.gfin, []⟩]) s with
  | none => none
  | some (S, t) => transactAll [⟨.gtag ntag, S ++ mask.toList⟩] t

/-- GCM encryption: ciphertext and a tag of `ntag` bytes (`45_aead_host_sequences.md` R282 to R284, R286). -/
def gcmSeal (K : BlockKey) (nonce aad pt : Bytes) (ntag : BitVec 8) (s : State) :
    Option ((Bytes × Vector Byte ntag.toNat) × State) :=
  match gcmY0 (gcmSubkey K) nonce s with
  | none => none
  | some (Y0, t) =>
    let ct := xorStream (ctrStream K Y0) 16 pt
    match gcmTag (gcmSubkey K) (Config.blockEncrypt K Y0) aad ct ntag t with
    | none => none
    | some (tag, u) => some ((ct, bytesAt ntag.toNat tag), u)

/-- What the host of GCM returns: success or failure, and its output buffer (`45_aead_host_sequences.md` R285). -/
structure GcmHost where
  /-- success, or authentication failure -/
  ok : Bool
  /-- the output buffer -/
  out : Bytes
  deriving DecidableEq, Repr

/-- GCM decryption: the comparison of `ntag` bytes with `ntag` bytes comes before the keystream is run over the ciphertext;
on `AUTH_FAIL` the output buffer is all zero (`45_aead_host_sequences.md` R285, R286). No answer when the core did not
answer, which an illegal `ntag` brings about by `F_TAGLEN`. -/
def gcmOpen (K : BlockKey) (nonce aad ct : Bytes) (ntag : BitVec 8) (tag : Vector Byte ntag.toNat) (s : State) :
    Option (GcmHost × State) :=
  match gcmY0 (gcmSubkey K) nonce s with
  | none => none
  | some (Y0, t) =>
    match gcmTag (gcmSubkey K) (Config.blockEncrypt K Y0) aad ct ntag t with
    | none => none
    | some (tag', u) =>
      match verifyEqual (bytesAt ntag.toNat tag') tag u with
      | none => none
      | some (true, v) => some ({ ok := true, out := xorStream (ctrStream K Y0) 16 ct }, v)
      | some (false, v) => some ({ ok := false, out := zeros ct.length }, v)

end Sys2Proof.Machine
end

