-- ==== Sys2Proof/Safety.lean ====
section
/-! DEFINITION. The terms claims are stated in: the invariants between two commands (`10_state.md` R26, R33), what counts as
public (`00_scope.md` R17), and the integer-level and transcript-level functions the engines must compute. -/

namespace Sys2Proof.Machine

/-- The prime `2^130 - 5` (`42_poly1305.md` R170). -/
def pPrime : Nat := 2 ^ 130 - 5

/-- Invariants of `P` between two commands (`10_state.md` R26, (a) to (e)). -/
abbrev PolyCtx.Inv (p : PolyCtx) : Prop :=
  p.n.toNat ≤ 15 ∧ limb p.r 16 = 0
    ∧ (∀ k ∈ [3, 7, 11, 15], limb p.r k ≤ 15) ∧ (∀ k ∈ [4, 8, 12], limb p.r k % 4 = 0)
    ∧ limb p.h 16 ≤ 4 ∧ val p.h < 2 ^ 130 + 2 ^ 20
    ∧ (p.active = false → p = PolyCtx.zero)

/-- Invariants of `G` between two commands (`10_state.md` R33 (a), (d), (e)); (b) holds by type. -/
abbrev GhashCtx.Inv (g : GhashCtx) : Prop :=
  g.n.toNat ≤ 15 ∧ (g.phase = .invalid → g = GhashCtx.zero) ∧ (g.phase = .aad → g.lenCt = 0#64)

/-- The fault record is zero until a fault is taken, then holds a cause 1 to 7 over two wiped contexts
(`10_state.md` R42, `60_exceptions.md` R301, R306). -/
abbrev State.FaultInv (s : State) : Prop :=
  (s.fault = false → s.fcode = 0#8 ∧ s.fcmd = 0#32)
    ∧ (s.fault = true → 1 ≤ s.fcode.toNat ∧ s.fcode.toNat ≤ 7 ∧ s.p = PolyCtx.zero ∧ s.g = GhashCtx.zero)

/-- A live GHASH context runs the backend the strap selected (`10_state.md` R32). -/
abbrev State.BackendInv (s : State) : Prop := s.g.phase ≠ .invalid → s.g.backend = s.capClmul

/-- The invariant of the core between two commands. -/
abbrev State.Inv (s : State) : Prop := s.p.Inv ∧ s.g.Inv ∧ s.FaultInv ∧ s.BackendInv

/-- The state precondition of a command: which context, in which phase, it needs (`60_exceptions.md` R301 causes 4 to 6). -/
def State.ready (i : Instr) (s : State) : Bool :=
  match i with
  | .pupd _ _ => s.p.active
  | .pfin _ _ => s.p.active
  | .gaad _ _ => s.g.phase == .aad
  | .gciph _ _ => s.g.phase != .invalid
  | .gfin _ _ => s.g.phase != .invalid
  | .nop _ _ => true
  | .rdsr _ _ => true
  | .ctmask _ _ => true
  | .ctsel _ _ => true
  | .cteq _ _ => true
  | .wipe _ _ => true
  | .pinit _ _ => true
  | .ginit _ _ => true
  | .gtag _ _ => true
  | .gfmul _ _ => true

/-- The command `i` raises the fault `c` in `s`: the step is fault entry for its word (`60_exceptions.md` R306). -/
abbrev Raises (i : Instr) (s : State) (c : FaultCause) : Prop :=
  exec i s = .next (s.popCmd.takeFault c (encode i))

/-- Two cores agree on all public state but the responses: every register R17 (`00_scope.md`) calls public, what is queued in
CMD, and how many bytes DIN and DOUT hold. -/
abbrev State.SamePublicButRsp (s t : State) : Prop :=
  s.p.n = t.p.n ∧ s.p.active = t.p.active
    ∧ s.g.n = t.g.n ∧ s.g.lenAad = t.g.lenAad ∧ s.g.lenCt = t.g.lenCt ∧ s.g.phase = t.g.phase
    ∧ s.g.backend = t.g.backend ∧ s.capClmul = t.capClmul
    ∧ s.fault = t.fault ∧ s.fcode = t.fcode ∧ s.fcmd = t.fcmd
    ∧ s.cmd = t.cmd ∧ s.din.length = t.din.length ∧ s.dout.length = t.dout.length

/-- Two cores agree on all public state (`00_scope.md` R17), the responses included. They may differ in every secret register
and every payload byte (assumption log 14). -/
abbrev State.SamePublic (s t : State) : Prop := s.SamePublicButRsp t ∧ s.rsp = t.rsp

/-- Two cores agree on everything but the secret registers (`00_scope.md` R17). -/
abbrev State.SameButSecrets (s t : State) : Prop := s.SamePublic t ∧ s.din = t.din ∧ s.dout = t.dout

/-- The 16-byte little-endian string of a number (`42_poly1305.md` R186). -/
def le128 (v : Nat) : Bytes := (List.range 16).map fun i => BitVec.ofNat 8 (v >>> (8 * i))

/-- A byte string cut into 16-byte pieces, the last one shorter where it must be. -/
def pieces (M : Bytes) : List Bytes := (List.range ((M.length + 15) / 16)).map fun k => slice M (16 * k) 16

/-- `a_last` of `42_poly1305.md` R186. -/
def poly1305Acc (rr : Nat) (M : Bytes) : Nat :=
  (pieces M).foldl (fun a B => (a + lenum B + 2 ^ (8 * B.length)) * rr % pPrime) 0

/-- The clamp as one mask on the number (`42_poly1305.md` R172). -/
def clampNat (r : Nat) : Nat := r &&& 0x0FFFFFFC0FFFFFFC0FFFFFFC0FFFFFFF

/-- The standard Poly1305 authenticator at integer level (`42_poly1305.md` R186). -/
def poly1305 (K M : Bytes) : Bytes :=
  le128 (poly1305Acc (clampNat (lenum (slice K 0 16))) M + lenum (slice K 16 16))

/-- A live Poly1305 context: started by PINIT with the 32-byte key `K`, fed the message `M` by PUPD commands so far, other
commands and host accesses that leave `P` alone standing anywhere between (`42_poly1305.md` R186). -/
inductive PolyRun : Bytes → Bytes → State → Prop where
  | start {s t : State} (hdin : 32 ≤ s.din.length) (hex : exec (.pinit 0#8 32#16) s = .next t) :
      PolyRun (s.din.take 32) [] t
  | feed {K M : Bytes} {s t : State} {len : BitVec 16} (hrun : PolyRun K M s) (hdin : len.toNat ≤ s.din.length)
      (hex : exec (.pupd 0#8 len) s = .next t) : PolyRun K (M ++ s.din.take len.toNat) t
  | other {K M : Bytes} {s t : State} (hrun : PolyRun K M s) (hp : t.p = s.p) : PolyRun K M t

/-- A live GHASH context: started by GINIT with the subkey `H`, then fed the associated data `A` and the ciphertext `C` so
far, in the order the phase machine allows (`43_ghash.md` R229). -/
inductive GhashRun : Block → Bytes → Bytes → State → Prop where
  | start {s t : State} (hdin : 16 ≤ s.din.length) (hex : exec (.ginit 0#8 16#16) s = .next t) :
      GhashRun (blockAt s.din 0) [] [] t
  | aad {H : Block} {A C : Bytes} {s t : State} {len : BitVec 16} (hrun : GhashRun H A C s)
      (hphase : s.g.phase = .aad) (hdin : len.toNat ≤ s.din.length) (hex : exec (.gaad 0#8 len) s = .next t) :
      GhashRun H (A ++ s.din.take len.toNat) C t
  | cipher {H : Block} {A C : Bytes} {s t : State} {len : BitVec 16} (hrun : GhashRun H A C s)
      (hdin : len.toNat ≤ s.din.length) (hex : exec (.gciph 0#8 len) s = .next t) :
      GhashRun H A (C ++ s.din.take len.toNat) t
  | other {H : Block} {A C : Bytes} {s t : State} (hrun : GhashRun H A C s) (hg : t.g = s.g) : GhashRun H A C t

/-- One run of `BWA` after another over the same buffer (`41_blockwise.md` R158): all the blocks, in order. -/
def bwaMany (buf : Block) (n : Nat) : List Bytes → BwaResult
  | [] => { blocks := [], buf := buf, n := n }
  | D :: Ds =>
    let r := bwa buf n D
    let q := bwaMany r.buf r.n Ds
    { q with blocks := r.blocks ++ q.blocks }

/-- The number a list of unreduced limbs stands for (`42_poly1305.md` R171). -/
def valOf : List Nat → Nat
  | [] => 0
  | t :: ts => t + 256 * valOf ts

/-- `pad16(S)` (`43_ghash.md` R229). -/
def pad16 (S : Bytes) : Bytes := S ++ padding S

/-- `T`, the bytes a GHASH context hashes (`43_ghash.md` R229). -/
def ghashInput (A C : Bytes) : Bytes :=
  pad16 A ++ pad16 C ++ be64 (BitVec.ofNat 64 (8 * A.length)) ++ be64 (BitVec.ofNat 64 (8 * C.length))

/-- `X_1 .. X_m` of `43_ghash.md` R229. -/
def ghashBlocks (A C : Bytes) : List Block := wholeBlocks (ghashInput A C)

end Sys2Proof.Machine
end

