-- ==== Sys2Proof/Certificates/Slice0/Obligations.lean ====
section
/-! DEFINITION. The statements about the core. Each docstring names the rule of spec/ it formalises. A statement about a fault
says `Raises i s c`, the exact state of fault entry, which `FaultEntryExact` spells out field by field. -/

/-- `poly(B)`, the polynomial over GF(2) a block stands for (`43_ghash.md` R210). -/
noncomputable def Sys2Proof.Machine.blockPoly (B : Sys2Proof.Block) : Polynomial (ZMod 2) :=
  ∑ i ∈ Finset.range 128, if Sys2Proof.Machine.blockBit B i then Polynomial.X ^ i else 0

/-- The field polynomial `g(x)` (`43_ghash.md` R210). -/
noncomputable def Sys2Proof.Machine.fieldPoly : Polynomial (ZMod 2) :=
  Polynomial.X ^ 128 + Polynomial.X ^ 7 + Polynomial.X ^ 2 + Polynomial.X + 1

/-- The product in GF(2^128) of two polynomials, reduced (`43_ghash.md` R211). -/
noncomputable def Sys2Proof.Machine.fieldMul (f h : Polynomial (ZMod 2)) : Polynomial (ZMod 2) :=
  (f * h) %ₘ Sys2Proof.Machine.fieldPoly

/-- `Y = GHASH(H, A, C)` at the level of polynomials over GF(2) (`43_ghash.md` R211, R229). -/
def Sys2Proof.Machine.IsGhash (H : Sys2Proof.Block) (A C : Sys2Proof.Bytes) (Y : Sys2Proof.Block) : Prop :=
  Sys2Proof.Machine.blockPoly Y = (Sys2Proof.Machine.ghashBlocks A C).foldl
    (fun y X => Sys2Proof.Machine.fieldMul (y + Sys2Proof.Machine.blockPoly X) (Sys2Proof.Machine.blockPoly H)) 0

open Sys2Proof Sys2Proof.Machine

/-! ### Encoding -/

/-- Decoding an encoded command gives it back, every operand at every value the fields admit (30_encoding.md sections 1, 2). -/
def Obligations.DecodeEncodeRoundTrip : Prop :=
  ∀ i : Instr, decode (encode i) = .ok i ∧ decodeTableWord 32 (encode i).toNat = some i

/-- The fields stand at bits 31:24, 23:16 and 15:0, the word is the formula of R101, and `w & mask` is the row's match (R94). -/
def Obligations.EncodingFormula : Prop :=
  ∀ i : Instr,
    (encode i).toNat = i.opc.toNat * 2 ^ 24 + i.arg.toNat * 2 ^ 16 + i.len.toNat
    ∧ encode i = (i.opc.setWidth 32 <<< 24) ||| (i.arg.setWidth 32 <<< 16) ||| i.len.setWidth 32
    ∧ encode i &&& 0xFF000000#32 = i.opc.setWidth 32 <<< 24
    ∧ opcOf (encode i) = i.opc ∧ argOf (encode i) = i.arg ∧ lenOf (encode i) = i.len

/-- Every word is accounted for: it is the encoding of what it decodes to, bit for bit, or its `OPC` is in one of the four
unassigned ranges and it is rejected naming it (30_encoding.md section 4, R98). -/
def Obligations.EveryWordAccountedFor : Prop :=
  ∀ w : Word,
    (∀ i, decode w = .ok i → encode i = w)
    ∧ (decode w = .error (.unassignedOpcode (opcOf w)) ↔
      (0x02 ≤ (opcOf w).toNat ∧ (opcOf w).toNat ≤ 0x0F) ∨ (0x14 ≤ (opcOf w).toNat ∧ (opcOf w).toNat ≤ 0x1F)
        ∨ (0x23 ≤ (opcOf w).toNat ∧ (opcOf w).toNat ≤ 0x2F) ∨ 0x36 ≤ (opcOf w).toNat)
    ∧ ((∃ i, decode w = .ok i) ∨ decode w = .error (.unassignedOpcode (opcOf w)))

/-- Words written out from the spec's encodings decode to the commands they stand for (sanity). -/
def Obligations.SpecWordsDecode : Prop :=
  decode 0b00000001000000100000000000000000#32 = .ok (.rdsr 2#8 0#16)
    ∧ decode 0b00010010000000000000000000100000#32 = .ok (.cteq 0#8 32#16)
    ∧ decode 0b00100001000000000000000000100010#32 = .ok (.pupd 0#8 34#16)
    ∧ decode 0b00110100000011000000000000100000#32 = .ok (.gtag 12#8 32#16)
    ∧ decode 0b00110110000000000000000000000000#32 = .error (.unassignedOpcode 0x36#8)

/-! ### The step and the channels -/

/-- The word at the head of CMD, decoded, is what a step executes (30_encoding.md section 2, R95; 10_state.md R36). -/
def Obligations.StepRunsDecoded : Prop :=
  ∀ (s : State) (w : Word) (rest : List Word) (i : Instr),
    s.fault = false → s.cmd = w :: rest → decode w = .ok i → step s = exec i s ∧ encode i = w

/-- No command's meaning stops the model (no data value faults, and a fault is itself a next state: 60_exceptions.md section
2); and the model's own convention (assumption log 2 and 3) for a core with no enabled step: idle and hold change nothing, a
faulted core answers the named stop `halted`. -/
def Obligations.OnlyHaltedCoreStops : Prop :=
  ∀ s : State,
    (∀ i : Instr, ∃ t, exec i s = .next t)
    ∧ (s.fault = true → step s = .fault (.halted s.fcode s.fcmd))
    ∧ (s.fault = false → s.enabled = false → step s = .next s)
    ∧ (s.fault = false → ∃ t, step s = .next t)

/-- When the core's step is enabled, what lifts a hold, and that an enabled step runs while no other changes anything (R72). -/
def Obligations.EnabledExactly : Prop :=
  ∀ s : State,
    (s.enabled = true ↔ s.fault = false ∧ ∃ w rest, s.cmd = w :: rest
        ∧ (wordFault w s ≠ none ∨ (lenOf w).toNat ≤ s.din.length))
    ∧ (s.enabled = true → ∃ t, step s = .next t ∧ t.cmd = s.cmd.tail ∧ t.rsp.length = s.rsp.length + 1)
    ∧ (s.enabled = false → ∀ t, step s = .next t → t = s)
    ∧ (∀ w rest B, s.fault = false → s.cmd = w :: rest → s.enabled = false →
        ((s.pushDin B).enabled = true ↔ (lenOf w).toNat ≤ s.din.length + B.length)
        ∧ (∀ v, (s.pushCmd v).enabled = false) ∧ (∀ b t, s.popDout = some (b, t) → t.enabled = false)
        ∧ (∀ v t, s.popRsp = some (v, t) → t.enabled = false))
    ∧ (s.fault = true → ∀ v B, (s.pushCmd v).enabled = false ∧ (s.pushDin B).enabled = false)

/-- How many units each command moves on the four channels, and that it completes; and what any word that faults moves, one
that selects no command included (R62). -/
def Obligations.ChannelTraffic : Prop :=
  ∀ (i : Instr) (s : State),
    (i.wf = true → s.ready i = true → i.len.toNat ≤ s.din.length →
      ∃ t B w, exec i s = .next t ∧ t.cmd = s.cmd.tail ∧ t.dout = s.dout ++ B ∧ t.rsp = s.rsp ++ [w]
        ∧ match i with
          | .nop _ _ => t.din = s.din ∧ B.length = 0
          | .rdsr _ _ => t.din = s.din ∧ B.length = 4
          | .ctmask _ _ => t.din = s.din.drop 8 ∧ B.length = 4
          | .ctsel _ _ => t.din = s.din.drop 12 ∧ B.length = 4
          | .cteq _ len => t.din = s.din.drop len.toNat ∧ B.length = 0
          | .wipe _ _ => t.din = s.din ∧ B.length = 0
          | .pinit _ _ => t.din = s.din.drop 32 ∧ B.length = 0
          | .pupd _ len => t.din = s.din.drop len.toNat ∧ B.length = 0
          | .pfin _ _ => t.din = s.din ∧ B.length = 16
          | .ginit _ _ => t.din = s.din.drop 16 ∧ B.length = 0
          | .gaad _ len => t.din = s.din.drop len.toNat ∧ B.length = 0
          | .gciph _ len => t.din = s.din.drop len.toNat ∧ B.length = 0
          | .gfin _ _ => t.din = s.din ∧ B.length = 16
          | .gtag arg _ => t.din = s.din.drop 32 ∧ B.length = arg.toNat
          | .gfmul _ _ => t.din = s.din.drop 32 ∧ B.length = 16)
    ∧ (∀ t, (i.wf = false ∨ s.ready i = false) → exec i s = .next t →
        t.cmd = s.cmd.tail ∧ t.din = s.din ∧ t.dout = s.dout ∧ ∃ w, t.rsp = s.rsp ++ [w])
    ∧ (∀ w rest c, s.fault = false → s.cmd = w :: rest → wordFault w s = some c →
        ∃ t v, step s = .next t ∧ t.cmd = rest ∧ t.din = s.din ∧ t.dout = s.dout ∧ t.rsp = s.rsp ++ [v])

/-- Every command popped is answered by one response word: `OPC` copied, zeros, then a `CODE` that is a fault code exactly when
a fault was taken (R96, R97). -/
def Obligations.ResponseWordForm : Prop :=
  ∀ (s t : State) (w : Word) (rest : List Word), s.cmd = w :: rest → s.enabled = true → step s = .next t →
    ∃ v : Word, t.rsp = s.rsp ++ [v]
      ∧ v.extractLsb' 24 8 = w.extractLsb' 24 8 ∧ v.extractLsb' 8 16 = 0#16
      ∧ (v.getLsbD 7 = t.fault)
      ∧ (t.fault = true → v.extractLsb' 0 7 = t.fcode.setWidth 7 ∧ 1 ≤ t.fcode.toNat ∧ t.fcode.toNat ≤ 7)
      ∧ (t.fault = false → v.extractLsb' 0 8 = 0x00#8 ∨ (v.extractLsb' 0 8 = 0x01#8 ∧ opcOf w = 0x12#8))

/-- Pushing more words or bytes behind a command changes nothing about it: the host may push back to back
(70_reset_and_hazards.md R345, 20_memory.md R71). -/
def Obligations.PipelinedPushesCommute : Prop :=
  ∀ (s t : State) (v : Word) (B : Bytes), s.enabled = true → step s = .next t →
    step (s.pushCmd v) = .next (t.pushCmd v) ∧ step (s.pushDin B) = .next (t.pushDin B)

/-! ### System commands and status -/

/-- NOP (R261). -/
def Obligations.NopRule : Prop :=
  encode (.nop 0#8 0#16) = 0x00000000#32
  ∧ ∀ (arg : BitVec 8) (len : BitVec 16) (s : State),
    (arg ≠ 0#8 → Raises (.nop arg len) s .fArg)
    ∧ (arg = 0#8 → len ≠ 0#16 → Raises (.nop arg len) s .fLen)
    ∧ (arg = 0#8 → len = 0#16 →
        exec (.nop arg len) s = .next { s with cmd := s.cmd.tail, rsp := s.rsp ++ [0x00000000#32] })

/-- RDSR (R262). -/
def Obligations.RdsrRule : Prop :=
  ∀ (arg : BitVec 8) (len : BitVec 16) (s : State),
    (2 < arg.toNat → Raises (.rdsr arg len) s .fArg)
    ∧ (arg.toNat ≤ 2 → len ≠ 0#16 → Raises (.rdsr arg len) s .fLen)
    ∧ (arg.toNat ≤ 2 → len = 0#16 →
        encode (.rdsr arg len) = 0x01000000#32 ||| (arg.setWidth 32 <<< 16)
        ∧ exec (.rdsr arg len) s = .next
            { s with
              cmd := s.cmd.tail
              dout := s.dout ++ le32 (if arg = 0#8 then 0x564D4331#32
                else if arg = 1#8 then (if s.capClmul then 1#32 else 0#32) else statusWord s)
              rsp := s.rsp ++ [0x01000000#32] })

/-- The fields of `SR2`, its reset value, and that no secret register appears in any status register (R41). -/
def Obligations.StatusRegisterFields : Prop :=
  (∀ s : State,
    (statusWord s).getLsbD 0 = s.p.active
    ∧ (statusWord s).extractLsb' 1 2 = (match s.g.phase with | .invalid => 0#2 | .aad => 1#2 | .cipher => 2#2)
    ∧ (statusWord s).getLsbD 3 = s.g.backend
    ∧ (statusWord s).extractLsb' 4 5 = s.p.n ∧ (statusWord s).extractLsb' 9 5 = s.g.n
    ∧ (statusWord s).extractLsb' 14 18 = 0#18)
  ∧ (∀ cap, statusWord (State.resetWith cap) = 0x00000000#32)
  ∧ (∀ s t : State, s.SamePublic t → ∀ k, statusReg k s = statusReg k t)
  ∧ (∀ s : State, statusReg 2#8 s = some (statusWord s))

/-! ### Constant-time primitives -/

/-- The circuit of `ct_mask32` is the equality mask (R121, R122). -/
def Obligations.CtMaskIsEqualityMask : Prop :=
  ∀ x y : Word,
    (x = y → ctMask32 x y = 0xFFFFFFFF#32) ∧ (x ≠ y → ctMask32 x y = 0x00000000#32)
    ∧ ctMask32 x y = 0#32 - ((~~~(x ^^^ y) &&& ((x ^^^ y) - 1#32)) >>> 31)

/-- `ct_sel32` takes each bit from `a` where `m` is 1 and from `b` where `m` is 0 (R123). -/
def Obligations.CtSelectPicksBits : Prop :=
  ∀ m a b : Word,
    (∀ k, k < 32 → (ctSel32 m a b).getLsbD k = if m.getLsbD k then a.getLsbD k else b.getLsbD k)
    ∧ ctSel32 0xFFFFFFFF#32 a b = a ∧ ctSel32 0#32 a b = b

/-- `ct_eq` is equality of strings of one length, computed by an or of all the differences (R124). -/
def Obligations.CtEqIsEquality : Prop :=
  ∀ a b : Bytes, a.length = b.length →
    (ctEq a b = true ↔ a = b)
    ∧ ctDiff 0#8 a b = (List.range a.length).foldl (fun d i => d ||| (a.getD i 0#8 ^^^ b.getD i 0#8)) 0#8

/-- CTMASK (R126). -/
def Obligations.CtmaskRule : Prop :=
  encode (.ctmask 0#8 8#16) = 0x10000008#32
  ∧ ∀ (arg : BitVec 8) (len : BitVec 16) (s : State),
    (arg ≠ 0#8 → Raises (.ctmask arg len) s .fArg)
    ∧ (arg = 0#8 → len ≠ 8#16 → Raises (.ctmask arg len) s .fLen)
    ∧ (arg = 0#8 → len = 8#16 → 8 ≤ s.din.length →
        exec (.ctmask arg len) s = .next
          { s with
            cmd := s.cmd.tail
            din := s.din.drop 8
            dout := s.dout ++ List.replicate 4 (if slice s.din 0 4 = slice s.din 4 4 then 0xFF#8 else 0x00#8)
            rsp := s.rsp ++ [0x10000000#32] })

/-- CTSEL (R128): byte `i` of the result mixes byte `i` of `a` and `b` by byte `i` of `m`. -/
def Obligations.CtselRule : Prop :=
  encode (.ctsel 0#8 12#16) = 0x1100000C#32
  ∧ ∀ (arg : BitVec 8) (len : BitVec 16) (s : State),
    (arg ≠ 0#8 → Raises (.ctsel arg len) s .fArg)
    ∧ (arg = 0#8 → len ≠ 12#16 → Raises (.ctsel arg len) s .fLen)
    ∧ (arg = 0#8 → len = 12#16 → 12 ≤ s.din.length →
        exec (.ctsel arg len) s = .next
          { s with
            cmd := s.cmd.tail
            din := s.din.drop 12
            dout := s.dout ++ (List.range 4).map (fun i =>
              (s.din.getD (4 + i) 0#8 &&& s.din.getD i 0#8) ||| (s.din.getD (8 + i) 0#8 &&& ~~~(s.din.getD i 0#8)))
            rsp := s.rsp ++ [0x11000000#32] })

/-- CTEQ (R130): the code of the response is the result, and a mismatch is no fault. -/
def Obligations.CteqRule : Prop :=
  ∀ (arg : BitVec 8) (len : BitVec 16) (s : State),
    (arg ≠ 0#8 → Raises (.cteq arg len) s .fArg)
    ∧ (arg = 0#8 → (len.toNat % 2 = 1 ∨ len = 0#16) → Raises (.cteq arg len) s .fLen)
    ∧ (arg = 0#8 → len.toNat % 2 = 0 → len ≠ 0#16 → len.toNat ≤ s.din.length →
        encode (.cteq arg len) = 0x12000000#32 ||| len.setWidth 32
        ∧ exec (.cteq arg len) s = .next
            { s with
              cmd := s.cmd.tail
              din := s.din.drop len.toNat
              rsp := s.rsp ++ [if slice s.din 0 (len.toNat / 2) = slice s.din (len.toNat / 2) (len.toNat / 2)
                then 0x12000000#32 else 0x12000001#32] })

/-- WIPE (R135), with the two wipe functions (R134): the selected contexts equal their reset values. -/
def Obligations.WipeRule : Prop :=
  ∀ (arg : BitVec 8) (len : BitVec 16) (s : State),
    ((arg = 0#8 ∨ 3 < arg.toNat) → Raises (.wipe arg len) s .fArg)
    ∧ (arg ≠ 0#8 → arg.toNat ≤ 3 → len ≠ 0#16 → Raises (.wipe arg len) s .fLen)
    ∧ (arg ≠ 0#8 → arg.toNat ≤ 3 → len = 0#16 →
        encode (.wipe arg len) = 0x13000000#32 ||| (arg.setWidth 32 <<< 16)
        ∧ exec (.wipe arg len) s = .next
            { s with
              p := if arg = 2#8 then s.p
                else { h := Vector.replicate 17 0#8, r := Vector.replicate 17 0#8, s := Vector.replicate 16 0#8,
                       buf := Vector.replicate 16 0#8, n := 0#5, active := false }
              g := if arg = 1#8 then s.g
                else { H := Vector.replicate 16 0#8, Y := Vector.replicate 16 0#8, buf := Vector.replicate 16 0#8, n := 0#5,
                       lenAad := 0#64, lenCt := 0#64, phase := .invalid, backend := false }
              cmd := s.cmd.tail
              rsp := s.rsp ++ [0x13000000#32] })
    ∧ (∀ cap, s.wipeP.p = (State.resetWith cap).p ∧ s.wipeG.g = (State.resetWith cap).g)

/-! ### BlockwiseAccumulator -/

/-- Which blocks `BWA` hands to the callback, the count it returns and the tail it keeps (R156). -/
def Obligations.BwaPostconditions : Prop :=
  ∀ (buf : Block) (n : Nat) (D : Bytes), n ≤ 15 →
    let S := buf.toList.take n ++ D
    let r := bwa buf n D
    r.blocks.map Vector.toList = (List.range (S.length / 16)).map (fun k => slice S (16 * k) 16)
    ∧ r.n = S.length % 16 ∧ r.n ≤ 15
    ∧ r.buf.toList.take r.n = S.drop (S.length - r.n)

/-- Concatenation invariance: any split of an input into payloads gives the callbacks, the count and the buffered bytes of one
run over the whole (R158). -/
def Obligations.BwaConcatenationInvariance : Prop :=
  ∀ (buf : Block) (n : Nat) (Ds : List Bytes), n ≤ 15 →
    let r := bwaMany buf n Ds
    let q := bwa buf n Ds.flatten
    r.blocks = q.blocks ∧ r.n = q.n ∧ r.buf.toList.take r.n = q.buf.toList.take q.n

/-- Which buffer bytes `BWA` leaves alone: all of them on an empty payload, and at or above the returned count every byte but
those a completed top-up wrote (41_blockwise.md section 2, R153, R157). -/
def Obligations.BwaStaleBytesKept : Prop :=
  ∀ (buf : Block) (n : Nat) (D : Bytes), n ≤ 15 →
    bwa buf n [] = { blocks := [], buf := buf, n := n }
    ∧ ∀ j : Fin 16, (bwa buf n D).n ≤ j.val →
        (bwa buf n D).buf[j] = if 0 < n ∧ 16 ≤ n + D.length ∧ n ≤ j.val then D.getD (j.val - n) 0#8 else buf[j]

/-! ### Poly1305 -/

/-- The clamp, limb by limb and as one mask on the number (R172). -/
def Obligations.ClampValue : Prop :=
  ∀ K : Block,
    (∀ i : Fin 16, (clamp K)[i.val]'(by omega) =
      if i.val ∈ [3, 7, 11, 15] then K[i] &&& 0x0F#8 else if i.val ∈ [4, 8, 12] then K[i] &&& 0xFC#8 else K[i])
    ∧ (clamp K)[16] = 0#8
    ∧ val (clamp K) = (lenum K.toList &&& 0x0FFFFFFC0FFFFFFC0FFFFFFC0FFFFFFF)
    ∧ val (clamp K) < 2 ^ 124

/-- Limb addition is addition modulo `2^136`, and no intermediate exceeds 511 (R173). -/
def Obligations.LimbAdditionValue : Prop :=
  ∀ x c : Limbs,
    val (pAdd x c) = (val x + val c) % 2 ^ 136
    ∧ (val x + val c < 2 ^ 136 → val (pAdd x c) = val x + val c)
    ∧ ∀ k, k < 17 → (carryPass 0 ((List.range k).map fun i => limb x i + limb c i)).2 + limb x k + limb c k ≤ 511

/-- The value of a block: marker at limb 16 of a full block, at limb `m` of a short one with zeros above (R174). -/
def Obligations.BlockMarkerValue : Prop :=
  ∀ B : Block,
    (∀ i : Fin 16, (fullBlock B)[i.val]'(by omega) = B[i]) ∧ (fullBlock B)[16] = 1#8
    ∧ val (fullBlock B) = lenum B.toList + 2 ^ 128
    ∧ ∀ m, 1 ≤ m → m ≤ 15 →
        (∀ i : Fin 17, (shortBlock B m)[i] = if i.val < m then B.toList.getD i.val 0#8 else if i.val = m then 1#8 else 0#8)
        ∧ val (shortBlock B m) = lenum (B.toList.take m) + 2 ^ (8 * m)

/-- The unreduced product: its limbs, that none overflows 32 bits under the engine's bounds or for any register contents, and
that it is congruent to the product modulo `p` (R175; the last bound is R180's). -/
def Obligations.RawProductCongruent : Prop :=
  ∀ x y : Limbs,
    pMulRaw x y = (List.range 17).map (fun i =>
      (∑ j ∈ Finset.range (i + 1), limb x j * limb y (i - j))
        + ∑ j ∈ Finset.Ico (i + 1) 17, 320 * limb x j * limb y (i + 17 - j))
    ∧ (limb y 16 = 0 → valOf (pMulRaw x y) % pPrime = val x * val y % pPrime)
    ∧ (limb x 16 ≤ 7 → (∀ k ∈ [3, 7, 11, 15], limb y k ≤ 15) → (∀ k ∈ [4, 8, 12], limb y k ≤ 252) → limb y 16 = 0 →
        ∀ t ∈ pMulRaw x y, t ≤ 212877825)
    ∧ ∀ t ∈ pMulRaw x y, t ≤ 332993025

/-- The minimal reduction: its value, its congruence, its bounds and that no step reaches 32 bits. R178's first-loop figure
`2 ^ 29 + 2 ^ 21` is stated for the limbs any register contents can give (R180); for limbs that are only below `2 ^ 29` it is
too low by 8223, so the statement says `2 ^ 29 + 2 ^ 22` there (assumption log 16). -/
def Obligations.MinimalReductionValue : Prop :=
  (∀ t : List Nat, t.length = 17 → (∀ u ∈ t, u < 2 ^ 29) →
    let V := valOf t
    let Q := V / 2 ^ 128
    let x := pMinReduce t
    val x = V % 2 ^ 128 + 5 * (Q / 4) + 2 ^ 128 * (Q % 4)
    ∧ val x % pPrime = V % pPrime
    ∧ (5 * (Q / 4) < 2 ^ 20 →
        limb x 16 ≤ 4 ∧ val x < 2 ^ 130 + 2 ^ 20 ∧ (limb x 16 = 4 → lenum (x.toList.take 16) < 2 ^ 20))
    ∧ (carryPass 0 (t.take 16)).2 + t.getD 16 0 = Q
    ∧ (∀ k, k ≤ 16 → (carryPass 0 (t.take k)).2 + t.getD k 0 < 2 ^ 29 + 2 ^ 22)
    ∧ ((∀ u ∈ t, u ≤ 332993025) → ∀ k, k ≤ 16 → (carryPass 0 (t.take k)).2 + t.getD k 0 < 2 ^ 29 + 2 ^ 21)
    ∧ 5 * (Q / 4) + 255 < 2 ^ 30 + 256)
  ∧ ∃ x : Limbs, val x = 2 ^ 130 - 2 ∧ pMinReduce (x.toList.map BitVec.toNat) = x

/-- One absorb adds the block and multiplies by `r` modulo `p` (R179), and keeps the accumulator's bounds, with the figures of
the bound analysis (R180). -/
def Obligations.AbsorbStep : Prop :=
  ∀ (p : PolyCtx) (c : Limbs), p.Inv → val c < 2 ^ 129 → limb c 16 ≤ 1 →
    let x := pAdd p.h c
    let t := pMulRaw x p.r
    let h' := pAbsorb p.r p.h c
    val x = val p.h + val c ∧ val x < 2 ^ 131 ∧ limb x 16 ≤ 7
    ∧ (∀ u ∈ t, u ≤ 212877825) ∧ t.getD 16 0 ≤ 730065
    ∧ (carryPass 0 (t.take 16)).2 ≤ 3111 ∧ valOf t / 2 ^ 128 ≤ 733176
    ∧ limb h' 16 ≤ 4 ∧ val h' < 2 ^ 130 + 2 ^ 20
    ∧ val h' % pPrime = (val p.h + val c) * val p.r % pPrime

/-- The full reduction gives the canonical residue, selected by bit 7 of limb 16 (R182). -/
def Obligations.FullReductionCanonical : Prop :=
  val negP = 2 ^ 136 - pPrime
  ∧ ∀ x : Limbs, val x < 2 * pPrime →
      val (pFullReduce x) = val x % pPrime
      ∧ ((pAdd x negP)[16].getLsbD 7 = true ↔ val x < pPrime)

/-- PINIT (R183). -/
def Obligations.PinitRule : Prop :=
  encode (.pinit 0#8 32#16) = 0x20000020#32
  ∧ ∀ (arg : BitVec 8) (len : BitVec 16) (s : State),
    (arg ≠ 0#8 → Raises (.pinit arg len) s .fArg)
    ∧ (arg = 0#8 → len ≠ 32#16 → Raises (.pinit arg len) s .fLen)
    ∧ (arg = 0#8 → len = 32#16 → 32 ≤ s.din.length →
        exec (.pinit arg len) s = .next
          { s with
            p := { h := zeroLimbs, r := clamp (blockAt s.din 0), s := blockAt s.din 16, buf := zeroBlock, n := 0#5,
                   active := true }
            cmd := s.cmd.tail
            din := s.din.drop 32
            rsp := s.rsp ++ [0x20000000#32] })

/-- PUPD (R184). -/
def Obligations.PupdRule : Prop :=
  ∀ (arg : BitVec 8) (len : BitVec 16) (s : State),
    (arg ≠ 0#8 → Raises (.pupd arg len) s .fArg)
    ∧ (arg = 0#8 → s.p.active = false → Raises (.pupd arg len) s .fPseq)
    ∧ (arg = 0#8 → s.p.active = true → len.toNat ≤ s.din.length →
        encode (.pupd arg len) = 0x21000000#32 ||| len.setWidth 32
        ∧ exec (.pupd arg len) s = .next
            { s with
              p := { s.p with
                h := (bwa s.p.buf s.p.n.toNat (s.din.take len.toNat)).blocks.foldl
                  (fun h B => pAbsorb s.p.r h (fullBlock B)) s.p.h
                buf := (bwa s.p.buf s.p.n.toNat (s.din.take len.toNat)).buf
                n := BitVec.ofNat 5 (bwa s.p.buf s.p.n.toNat (s.din.take len.toNat)).n }
              cmd := s.cmd.tail
              din := s.din.drop len.toNat
              rsp := s.rsp ++ [0x21000000#32] })

/-- PFIN (R185). -/
def Obligations.PfinRule : Prop :=
  encode (.pfin 0#8 0#16) = 0x22000000#32
  ∧ ∀ (arg : BitVec 8) (len : BitVec 16) (s : State),
    (arg ≠ 0#8 → Raises (.pfin arg len) s .fArg)
    ∧ (arg = 0#8 → len ≠ 0#16 → Raises (.pfin arg len) s .fLen)
    ∧ (arg = 0#8 → len = 0#16 → s.p.active = false → Raises (.pfin arg len) s .fPseq)
    ∧ (arg = 0#8 → len = 0#16 → s.p.active = true →
        exec (.pfin arg len) s = .next
          { s with
            p := PolyCtx.zero
            cmd := s.cmd.tail
            dout := s.dout ++ (pAdd
              (pFullReduce (if 0 < s.p.n.toNat then pAbsorb s.p.r s.p.h (shortBlock s.p.buf s.p.n.toNat) else s.p.h))
              (limbsOf (s.p.s.toList ++ [0#8]))).toList.take 16
            rsp := s.rsp ++ [0x22000000#32] })

/-- PFIN pushes the standard Poly1305 authenticator of the whole message, however it was split, and between commands the
accumulator is congruent to the running value (R186). -/
def Obligations.Poly1305Authenticator : Prop :=
  ∀ (K M : Bytes) (s : State), PolyRun K M s →
    (∃ t, exec (.pfin 0#8 0#16) s = .next t ∧ t.dout = s.dout ++ poly1305 K M)
    ∧ val s.p.h % pPrime = poly1305Acc (clampNat (lenum (slice K 0 16))) (M.take (16 * (M.length / 16)))

/-! ### GHASH -/

/-- The two integer views of a block and their inverses (R212). -/
def Obligations.BlockIntegerViews : Prop :=
  ∀ B : Block,
    (∀ i, i < 128 → (beint B).getLsbD (127 - i) = blockBit B i ∧ (pint B).getLsbD i = blockBit B i)
    ∧ (beint B).toNat = lenum B.toList.reverse
    ∧ pint B = (beint B).reverse
    ∧ blkBe (beint B) = B ∧ blkP (pint B) = B
    ∧ (∀ v : BitVec 128, beint (blkBe v) = v ∧ pint (blkP v) = v)

/-- Both multiplier backends compute the product of GF(2^128), for all inputs, and so are equal (R213, R214). -/
def Obligations.BackendsComputeFieldProduct : Prop :=
  ∀ X Y : Block,
    blockPoly (gMul0 X Y) = fieldMul (blockPoly X) (blockPoly Y)
    ∧ blockPoly (gMul1 X Y) = fieldMul (blockPoly X) (blockPoly Y)
    ∧ gMul0 X Y = gMul1 X Y

/-- The zero-padding flush (R219). -/
def Obligations.PadFlush : Prop :=
  ∀ g : GhashCtx,
    (g.n = 0#5 → g.pad = g)
    ∧ (g.n ≠ 0#5 → g.n.toNat ≤ 15 → ∃ P : Block, P.toList = g.buf.toList.take g.n.toNat ++ zeros (16 - g.n.toNat)
        ∧ g.pad = { g with buf := P, n := 0#5, Y := gMul g.backend (xorBlock g.Y P) g.H })

/-- Every entry of the phase table (43_ghash.md section 4, R220): the phase after a completed command, after a fault and after
reset, and which commands fault in which phase. -/
def Obligations.PhaseTable : Prop :=
  ∀ (i : Instr) (s t : State), exec i s = .next t →
    (commandFault i s ≠ none → t.g.phase = .invalid)
    ∧ (commandFault i s = none → i.len.toNat ≤ s.din.length → t.g.phase =
        match i with
        | .ginit _ _ => .aad
        | .gaad _ _ => .aad
        | .gciph _ _ => .cipher
        | .gfin _ _ => .invalid
        | .wipe arg _ => if arg.getLsbD 1 then .invalid else s.g.phase
        | _ => s.g.phase)
    ∧ (∀ len, (s.g.phase = .invalid → Raises (.gaad 0#8 len) s .fGseqInvalid ∧ Raises (.gciph 0#8 len) s .fGseqInvalid
          ∧ Raises (.gfin 0#8 0#16) s .fGseqInvalid)
        ∧ (s.g.phase = .cipher → Raises (.gaad 0#8 len) s .fGseqAad))
    ∧ (∀ cap, (s.resetInput cap).g.phase = .invalid)

/-- The phase moves only `AAD → CIPHER`, to `INVALID`, or by GINIT to `AAD`; the first GCIPH moves it whatever its `LEN`
(R221). -/
def Obligations.PhaseMonotonic : Prop :=
  ∀ s t : State, step s = .next t →
    (t.g.phase ≠ s.g.phase →
      (s.g.phase = .aad ∧ t.g.phase = .cipher ∧ ∃ w rest, s.cmd = w :: rest ∧ opcOf w = 0x32#8)
      ∨ t.g.phase = .invalid
      ∨ (t.g.phase = .aad ∧ ∃ w rest, s.cmd = w :: rest ∧ opcOf w = 0x30#8))
    ∧ (s.g.phase = .invalid → t.g.phase ≠ .invalid →
        t.g = { GhashCtx.zero with H := t.g.H, backend := s.capClmul, phase := .aad })
    ∧ (∀ len rest, s.fault = false → s.g.phase = .aad → s.cmd = encode (.gciph 0#8 len) :: rest →
        len.toNat ≤ s.din.length → t.g.phase = .cipher)

/-- GINIT (R222). -/
def Obligations.GinitRule : Prop :=
  encode (.ginit 0#8 16#16) = 0x30000010#32
  ∧ ∀ (arg : BitVec 8) (len : BitVec 16) (s : State),
    (arg ≠ 0#8 → Raises (.ginit arg len) s .fArg)
    ∧ (arg = 0#8 → len ≠ 16#16 → Raises (.ginit arg len) s .fLen)
    ∧ (arg = 0#8 → len = 16#16 → 16 ≤ s.din.length →
        exec (.ginit arg len) s = .next
          { s with
            g := { H := blockAt s.din 0, Y := zeroBlock, buf := zeroBlock, n := 0#5, lenAad := 0#64, lenCt := 0#64,
                   phase := .aad, backend := s.capClmul }
            cmd := s.cmd.tail
            din := s.din.drop 16
            rsp := s.rsp ++ [0x30000000#32] })

/-- GAAD (R223). -/
def Obligations.GaadRule : Prop :=
  ∀ (arg : BitVec 8) (len : BitVec 16) (s : State),
    (arg ≠ 0#8 → Raises (.gaad arg len) s .fArg)
    ∧ (arg = 0#8 → s.g.phase = .invalid → Raises (.gaad arg len) s .fGseqInvalid)
    ∧ (arg = 0#8 → s.g.phase = .cipher → Raises (.gaad arg len) s .fGseqAad)
    ∧ (arg = 0#8 → s.g.phase = .aad → len.toNat ≤ s.din.length →
        encode (.gaad arg len) = 0x31000000#32 ||| len.setWidth 32
        ∧ exec (.gaad arg len) s = .next
            { s with
              g := { s.g with
                lenAad := BitVec.ofNat 64 (s.g.lenAad.toNat + len.toNat)
                Y := (bwa s.g.buf s.g.n.toNat (s.din.take len.toNat)).blocks.foldl
                  (fun Y X => gMul s.g.backend (xorBlock Y X) s.g.H) s.g.Y
                buf := (bwa s.g.buf s.g.n.toNat (s.din.take len.toNat)).buf
                n := BitVec.ofNat 5 (bwa s.g.buf s.g.n.toNat (s.din.take len.toNat)).n }
              cmd := s.cmd.tail
              din := s.din.drop len.toNat
              rsp := s.rsp ++ [0x31000000#32] })

/-- GCIPH (R224): in phase `AAD` it pads first, whatever its `LEN`. -/
def Obligations.GciphRule : Prop :=
  ∀ (arg : BitVec 8) (len : BitVec 16) (s : State),
    (arg ≠ 0#8 → Raises (.gciph arg len) s .fArg)
    ∧ (arg = 0#8 → s.g.phase = .invalid → Raises (.gciph arg len) s .fGseqInvalid)
    ∧ (arg = 0#8 → s.g.phase ≠ .invalid → len.toNat ≤ s.din.length →
        encode (.gciph arg len) = 0x32000000#32 ||| len.setWidth 32
        ∧ ∃ g : GhashCtx, (s.g.phase = .aad → g = s.g.pad) ∧ (s.g.phase = .cipher → g = s.g)
          ∧ exec (.gciph arg len) s = .next
            { s with
              g := { g with
                phase := .cipher
                lenCt := BitVec.ofNat 64 (s.g.lenCt.toNat + len.toNat)
                Y := (bwa g.buf g.n.toNat (s.din.take len.toNat)).blocks.foldl
                  (fun Y X => gMul s.g.backend (xorBlock Y X) s.g.H) g.Y
                buf := (bwa g.buf g.n.toNat (s.din.take len.toNat)).buf
                n := BitVec.ofNat 5 (bwa g.buf g.n.toNat (s.din.take len.toNat)).n }
              cmd := s.cmd.tail
              din := s.din.drop len.toNat
              rsp := s.rsp ++ [0x32000000#32] })

/-- GFIN (R225). -/
def Obligations.GfinRule : Prop :=
  encode (.gfin 0#8 0#16) = 0x33000000#32
  ∧ ∀ (arg : BitVec 8) (len : BitVec 16) (s : State),
    (arg ≠ 0#8 → Raises (.gfin arg len) s .fArg)
    ∧ (arg = 0#8 → len ≠ 0#16 → Raises (.gfin arg len) s .fLen)
    ∧ (arg = 0#8 → len = 0#16 → s.g.phase = .invalid → Raises (.gfin arg len) s .fGseqInvalid)
    ∧ (arg = 0#8 → len = 0#16 → s.g.phase ≠ .invalid → ∃ Lb : Block,
        Lb.toList = be64 (BitVec.ofNat 64 (8 * s.g.lenAad.toNat)) ++ be64 (BitVec.ofNat 64 (8 * s.g.lenCt.toNat))
        ∧ exec (.gfin arg len) s = .next
          { s with
            g := GhashCtx.zero
            cmd := s.cmd.tail
            dout := s.dout ++ (gMul s.g.backend (xorBlock s.g.pad.Y Lb) s.g.H).toList
            rsp := s.rsp ++ [0x33000000#32] })

/-- GTAG (R226), and that a truncated tag is the front of the full one. -/
def Obligations.GtagRule : Prop :=
  ∀ (arg : BitVec 8) (len : BitVec 16) (s : State),
    ((arg.toNat < 2 ∨ 16 < arg.toNat) → Raises (.gtag arg len) s .fTaglen)
    ∧ (2 ≤ arg.toNat → arg.toNat ≤ 16 → len ≠ 32#16 → Raises (.gtag arg len) s .fLen)
    ∧ (2 ≤ arg.toNat → arg.toNat ≤ 16 → len = 32#16 → 32 ≤ s.din.length →
        encode (.gtag arg len) = 0x34000020#32 ||| (arg.setWidth 32 <<< 16)
        ∧ exec (.gtag arg len) s = .next
            { s with
              cmd := s.cmd.tail
              din := s.din.drop 32
              dout := s.dout ++ ((List.range 16).map fun i => s.din.getD i 0#8 ^^^ s.din.getD (16 + i) 0#8).take arg.toNat
              rsp := s.rsp ++ [0x34000000#32] })

/-- GFMUL (R227): either backend, the strap not consulted. -/
def Obligations.GfmulRule : Prop :=
  ∀ (arg : BitVec 8) (len : BitVec 16) (s : State),
    (1 < arg.toNat → Raises (.gfmul arg len) s .fArg)
    ∧ (arg.toNat ≤ 1 → len ≠ 32#16 → Raises (.gfmul arg len) s .fLen)
    ∧ (arg.toNat ≤ 1 → len = 32#16 → 32 ≤ s.din.length →
        encode (.gfmul arg len) = 0x35000020#32 ||| (arg.setWidth 32 <<< 16)
        ∧ exec (.gfmul arg len) s = .next
            { s with
              cmd := s.cmd.tail
              din := s.din.drop 32
              dout := s.dout ++ (if arg = 0#8 then gMul0 (blockAt s.din 0) (blockAt s.din 16)
                else gMul1 (blockAt s.din 0) (blockAt s.din 16)).toList
              rsp := s.rsp ++ [0x35000000#32] })

/-- GFIN pushes GHASH(H, A, C), a function of the subkey and the two inputs alone (43_ghash.md section 6, R229). -/
def Obligations.GhashValue : Prop :=
  ∀ (H : Block) (A C : Bytes) (s : State), GhashRun H A C s → ∃ t, ∃ Y : Block,
    exec (.gfin 0#8 0#16) s = .next t ∧ t.dout = s.dout ++ Y.toList
    ∧ blockPoly Y = (ghashBlocks A C).foldl (fun y X => fieldMul (y + blockPoly X) (blockPoly H)) 0

/-! ### Faults and reset -/

/-- Fault entry, every field (R306): record, wipe both contexts, respond, halt; nothing else moves. -/
def Obligations.FaultEntryExact : Prop :=
  ∀ (s : State) (w : Word) (rest : List Word) (c : FaultCause),
    s.fault = false → s.cmd = w :: rest → wordFault w s = some c →
    ∃ k : Nat, k = (match c with
        | .fOpcode => 1 | .fArg => 2 | .fLen => 3 | .fPseq => 4 | .fGseqAad => 5 | .fGseqInvalid => 6 | .fTaglen => 7)
      ∧ step s = .next
        { p := PolyCtx.zero, g := GhashCtx.zero, capClmul := s.capClmul
          fault := true, fcode := BitVec.ofNat 8 k, fcmd := w
          cmd := rest, din := s.din, dout := s.dout
          rsp := s.rsp ++ [BitVec.ofNat 32 ((opcOf w).toNat * 2 ^ 24 + 0x80 + k)] }
      ∧ ∀ t, step s = .next t → t.enabled = false

/-- One fault per command, the first that applies: `OPC`, then `ARG`, then `LEN`, then the state check (R304). -/
def Obligations.FaultPriority : Prop :=
  (∀ (w : Word) (s : State), (∀ i, decode w ≠ .ok i) → wordFault w s = some .fOpcode)
  ∧ ∀ (i : Instr) (s : State),
    wordFault (encode i) s = commandFault i s
    ∧ commandFault i s =
      (if i.argLegal = false then some (match i with | .gtag _ _ => .fTaglen | _ => .fArg)
      else if i.lenLegal = false then some .fLen
      else match i with
        | .pupd _ _ => if s.p.active then none else some .fPseq
        | .pfin _ _ => if s.p.active then none else some .fPseq
        | .gaad _ _ => match s.g.phase with
          | .invalid => some .fGseqInvalid
          | .cipher => some .fGseqAad
          | .aad => none
        | .gciph _ _ => if s.g.phase = .invalid then some .fGseqInvalid else none
        | .gfin _ _ => if s.g.phase = .invalid then some .fGseqInvalid else none
        | _ => none)
    ∧ (∀ c, commandFault i s = some c → Raises i s c)

/-- Reset is the only way out of the fault state and the only event that changes `CFG.cap_clmul`: no step and no other host
access clears the fault record or moves the latched strap (70_reset_and_hazards.md section 1, R340; R307, R342). -/
def Obligations.OnlyResetLeavesFaultOrMovesStrap : Prop :=
  ∀ s : State,
    (∀ t, step s = .next t → s.fault = false ∧ t.capClmul = s.capClmul)
    ∧ (∀ w B, (s.pushCmd w).sideband = s.sideband ∧ (s.pushDin B).sideband = s.sideband
        ∧ (s.pushCmd w).capClmul = s.capClmul ∧ (s.pushDin B).capClmul = s.capClmul)
    ∧ (∀ b t, s.popDout = some (b, t) → t.sideband = s.sideband ∧ t.capClmul = s.capClmul)
    ∧ (∀ w t, s.popRsp = some (w, t) → t.sideband = s.sideband ∧ t.capClmul = s.capClmul)
    ∧ ∀ cap, (s.resetInput cap).sideband = (false, 0#8, 0#32) ∧ (s.resetInput cap).capClmul = cap

/-- Reset gives every register its stated value from any state; the commands that need a context fault if sent first and every
other well-formed command completes (R340, R341, with the table of R46). -/
def Obligations.ResetThenFirstCommand : Prop :=
  ∀ (s : State) (cap : Bool),
    s.resetInput cap =
      { p := { h := Vector.replicate 17 0#8, r := Vector.replicate 17 0#8, s := Vector.replicate 16 0#8,
               buf := Vector.replicate 16 0#8, n := 0#5, active := false }
        g := { H := Vector.replicate 16 0#8, Y := Vector.replicate 16 0#8, buf := Vector.replicate 16 0#8, n := 0#5,
               lenAad := 0#64, lenCt := 0#64, phase := .invalid, backend := false }
        capClmul := cap, fault := false, fcode := 0#8, fcmd := 0#32, cmd := [], din := [], dout := [], rsp := [] }
    ∧ ∀ (i : Instr) (D : Bytes), i.wf = true → i.len.toNat ≤ D.length →
        ∃ t, step (((s.resetInput cap).pushCmd (encode i)).pushDin D) = .next t
          ∧ (t.fault = true ↔ match i with
              | .pupd _ _ | .pfin _ _ | .gaad _ _ | .gciph _ _ | .gfin _ _ => True
              | _ => False)

/-! ### Whole-machine rules -/

/-- Every step keeps the invariants of both contexts (R26, R33), of the fault record (R42) and of the latched backend (R32). -/
def Obligations.StepKeepsInvariant : Prop :=
  ∀ s t : State, s.Inv → step s = .next t → t.Inv

/-- The invariant holds after reset with either strap level, for the model's own reset state too. -/
def Obligations.ResetHasInvariant : Prop :=
  (∀ (s : State) (cap : Bool), (s.resetInput cap).Inv) ∧ State.reset.Inv

/-- What each completed command may write: the write half of the access table (10_state.md section 4, R34). -/
def Obligations.CommandFrames : Prop :=
  ∀ (i : Instr) (s t : State), exec i s = .next t → commandFault i s = none →
    t.capClmul = s.capClmul ∧ t.fault = s.fault ∧ t.fcode = s.fcode ∧ t.fcmd = s.fcmd
    ∧ (match i with
        | .pinit _ _ => t.g = s.g
        | .pupd _ _ => t.g = s.g ∧ t.p.r = s.p.r ∧ t.p.s = s.p.s ∧ t.p.active = s.p.active
        | .pfin _ _ => t.g = s.g
        | .ginit _ _ => t.p = s.p
        | .gaad _ _ => t.p = s.p ∧ t.g.H = s.g.H ∧ t.g.lenCt = s.g.lenCt ∧ t.g.phase = s.g.phase ∧ t.g.backend = s.g.backend
        | .gciph _ _ => t.p = s.p ∧ t.g.H = s.g.H ∧ t.g.lenAad = s.g.lenAad ∧ t.g.backend = s.g.backend
        | .gfin _ _ => t.p = s.p
        | .wipe arg _ => (arg.getLsbD 0 = false → t.p = s.p) ∧ (arg.getLsbD 1 = false → t.g = s.g)
        | _ => t.p = s.p ∧ t.g = s.g)
    ∧ (∃ B, t.dout = s.dout ++ B) ∧ (∃ R, t.rsp = s.rsp ++ R)

/-- The two engines are independent: a completed Poly1305 command neither writes `G` nor depends on it, and the reverse
(60_exceptions.md R313). -/
def Obligations.EnginesIndependent : Prop :=
  ∀ (s : State) (p : PolyCtx) (g : GhashCtx) (arg : BitVec 8) (len : BitVec 16),
    (∀ i ∈ [Instr.pinit arg len, .pupd arg len, .pfin arg len], commandFault i s = none → ∀ t, exec i s = .next t →
      exec i (s.setG g) = .next (t.setG g))
    ∧ (∀ i ∈ [Instr.ginit arg len, .gaad arg len, .gciph arg len, .gfin arg len], commandFault i s = none →
      ∀ t, exec i s = .next t → exec i (s.setP p) = .next (t.setP p))

/-- The backends give equal blocks, and no result of a command but the strap bit of `SR1` and the `G_BACKEND` bit of `SR2`
depends on which one runs (R216). -/
def Obligations.BackendUnobservable : Prop :=
  (∀ X Y : Block, gMul0 X Y = gMul1 X Y)
  ∧ (∀ (i : Instr) (s t : State) (cap b : Bool), exec i s = .next t → (∀ arg len, i ≠ .rdsr arg len) →
      ∃ b' : Bool, exec i { s with capClmul := cap, g := { s.g with backend := b } }
        = .next { t with capClmul := cap, g := { t.g with backend := b' } })
  ∧ ∀ (s : State) (cap b : Bool),
      statusReg 0#8 { s with capClmul := cap, g := { s.g with backend := b } } = statusReg 0#8 s
      ∧ (cap = s.capClmul → statusReg 1#8 { s with capClmul := cap, g := { s.g with backend := b } } = statusReg 1#8 s)
      ∧ ∀ k, k ≠ 3 → (statusWord { s with capClmul := cap, g := { s.g with backend := b } }).getLsbD k
          = (statusWord s).getLsbD k

/-- No command but PFIN and GFIN lets a secret register reach DOUT or RSP (R45). -/
def Obligations.SecretsStayInside : Prop :=
  ∀ (i : Instr) (s t s' t' : State), s.SameButSecrets t → exec i s = .next s' → exec i t = .next t' →
    (∀ arg len, i ≠ .pfin arg len) → (∀ arg len, i ≠ .gfin arg len) →
    s'.SameButSecrets t'

/-- The leakage rule: the micro-operations of any word, one that selects no command included, are the same for two cores that
differ only in secrets and payload bytes, and so is everything public after it but the outcome of CTEQ, bit 0 of its response's
`CODE` (40_ct_primitives.md R125). The grain of the micro-operations and what counts as public are the model's own choice
(assumption log 14). -/
def Obligations.LeakageIsPublic : Prop :=
  (∀ (w : Word) (s t : State), s.SamePublic t → microOps w s = microOps w t)
  ∧ (∀ (i : Instr) (s t s' t' : State), s.SamePublic t → exec i s = .next s' → exec i t = .next t' →
      s'.SamePublicButRsp t'
      ∧ ((∀ arg len, i ≠ .cteq arg len) → s'.rsp = t'.rsp)
      ∧ s'.rsp.dropLast = t'.rsp.dropLast ∧ s'.rsp.map (fun v : Word => v >>> 1) = t'.rsp.map (fun v : Word => v >>> 1))
  ∧ (∀ s t s' t' : State, s.SamePublic t → step s = .next s' → step t = .next t' →
      s'.SamePublicButRsp t' ∧ ((∀ w rest, s.cmd = w :: rest → opcOf w ≠ 0x12#8) → s'.rsp = t'.rsp)
      ∧ s'.rsp.dropLast = t'.rsp.dropLast ∧ s'.rsp.map (fun v : Word => v >>> 1) = t'.rsp.map (fun v : Word => v >>> 1))

/-! ### The AEAD compositions, as host sequences -/

/-- The `PolyTag` sequence gives the Poly1305 authenticator of the transcript, from any core with empty channels and no fault
(R274). The sequence is one of those the spec allows, the model's own choice (assumption log 15). -/
def Obligations.PolyTagSequence : Prop :=
  ∀ (otk aad ct : Bytes) (s : State), otk.length = 32 → s.fault = false → s.cmd = [] → s.din = [] → s.dout = [] → s.rsp = [] →
    ∃ t, polyTag otk aad ct s = some (poly1305 otk (transcript aad ct), t)
      ∧ t = { s with p := PolyCtx.zero }

/-- ChaCha20-Poly1305: a seal answers the ciphertext and the authenticator of its transcript; opening succeeds exactly on the
authenticator of what was received, so it returns the plaintext of what was sealed and fails on any other tag; on failure the
output buffer is all zero and the one-time key and the keystream are erased (45_aead_host_sequences.md sections 2 and 4, R288
(a) and the tag part of (b)). The host's sequence, and that 64 bytes of keystream exist when the tags are compared, are the
model's own choice (assumption log 15). -/
def Obligations.ChachaOpenSeal : Prop :=
  ∀ (key : Vector Byte 32) (nonce : Vector Byte 12) (aad pt : Bytes) (s : State),
    s.fault = false → s.cmd = [] → s.din = [] → s.dout = [] → s.rsp = [] →
    (∃ ct tag t, chachaSeal key nonce aad pt s = some ((ct, tag), t) ∧ ct.length = pt.length
      ∧ (∀ i, i < pt.length → ct.getD i 0#8 = pt.getD i 0#8 ^^^ ks20 key nonce (64 + i))
      ∧ tag.toList = poly1305 (oneTimeKey key nonce) (transcript aad ct)
      ∧ (∃ m u, chachaOpen key nonce aad ct tag t = some (m, u) ∧ m.ok = true ∧ m.out = pt)
      ∧ ∀ tag', tag' ≠ tag → ∃ m u, chachaOpen key nonce aad ct tag' t = some (m, u) ∧ m.ok = false)
    ∧ ∀ (ct : Bytes) (tag : Vector Byte 16), ∃ m u, chachaOpen key nonce aad ct tag s = some (m, u)
      ∧ u = { s with p := PolyCtx.zero }
      ∧ (m.ok = true ↔ tag.toList = poly1305 (oneTimeKey key nonce) (transcript aad ct))
      ∧ (m.ok = true → m.out = xorStream (ks20 key nonce) 64 ct)
      ∧ (m.ok = false → m.out = zeros ct.length ∧ m.otk = zeros 32 ∧ m.ks = zeros 64)

/-- GCM: the same, for every nonce length and every legal tag length. The tag is the first `ntag` bytes of the GHASH value of
the associated data and the ciphertext, masked by the encrypted initial counter block, which is the nonce and `00 00 00 01` for a
nonce of 12 bytes and the GHASH of the nonce otherwise (45_aead_host_sequences.md sections 3 and 4, R281 to R283, R285, R288).
The host's sequence is one of those the spec allows, the model's own choice (assumption log 15). -/
def Obligations.GcmOpenSeal : Prop :=
  ∀ (K : BlockKey) (nonce aad pt : Bytes) (ntag : BitVec 8) (s : State), 2 ≤ ntag.toNat → ntag.toNat ≤ 16 →
    s.fault = false → s.cmd = [] → s.din = [] → s.dout = [] → s.rsp = [] →
    ∃ Y0 : Block,
      (nonce.length = 12 → Y0.toList = nonce ++ [0x00#8, 0x00#8, 0x00#8, 0x01#8])
      ∧ (nonce.length ≠ 12 → IsGhash (Config.blockEncrypt K zeroBlock) [] nonce Y0)
      ∧ (∃ ct tag t, gcmSeal K nonce aad pt ntag s = some ((ct, tag), t) ∧ ct.length = pt.length
        ∧ (∀ i, i < pt.length → ct.getD i 0#8 = pt.getD i 0#8 ^^^ ctrStream K Y0 (16 + i))
        ∧ (∃ S, IsGhash (Config.blockEncrypt K zeroBlock) aad ct S
          ∧ tag.toList = (xorBlock S (Config.blockEncrypt K Y0)).toList.take ntag.toNat)
        ∧ (∃ m u, gcmOpen K nonce aad ct ntag tag t = some (m, u) ∧ m.ok = true ∧ m.out = pt)
        ∧ ∀ tag', tag' ≠ tag → ∃ m u, gcmOpen K nonce aad ct ntag tag' t = some (m, u) ∧ m.ok = false)
      ∧ ∀ (ct : Bytes) (tag : Vector Byte ntag.toNat), ∃ m u S, gcmOpen K nonce aad ct ntag tag s = some (m, u)
        ∧ u = { s with g := GhashCtx.zero }
        ∧ IsGhash (Config.blockEncrypt K zeroBlock) aad ct S
        ∧ (m.ok = true ↔ tag.toList = (xorBlock S (Config.blockEncrypt K Y0)).toList.take ntag.toNat)
        ∧ (m.ok = true → m.out = xorStream (ctrStream K Y0) 16 ct)
        ∧ (m.ok = false → m.out = zeros ct.length)
end

