-- ==== Sys2Proof/Laws/State.lean ====
section
/-! SUPPORT. Each field after each update of the state: one lemma per field per update, all by rfl. -/

namespace Sys2Proof.Machine

variable (s : State)

@[simp] theorem State.popCmd_p : (s.popCmd).p = s.p := rfl
@[simp] theorem State.popCmd_g : (s.popCmd).g = s.g := rfl
@[simp] theorem State.popCmd_capClmul : (s.popCmd).capClmul = s.capClmul := rfl
@[simp] theorem State.popCmd_fault : (s.popCmd).fault = s.fault := rfl
@[simp] theorem State.popCmd_fcode : (s.popCmd).fcode = s.fcode := rfl
@[simp] theorem State.popCmd_fcmd : (s.popCmd).fcmd = s.fcmd := rfl
@[simp] theorem State.popCmd_cmd : (s.popCmd).cmd = s.cmd.tail := rfl
@[simp] theorem State.popCmd_din : (s.popCmd).din = s.din := rfl
@[simp] theorem State.popCmd_dout : (s.popCmd).dout = s.dout := rfl
@[simp] theorem State.popCmd_rsp : (s.popCmd).rsp = s.rsp := rfl

@[simp] theorem State.dropDin_p (n : Nat) : (s.dropDin n).p = s.p := rfl
@[simp] theorem State.dropDin_g (n : Nat) : (s.dropDin n).g = s.g := rfl
@[simp] theorem State.dropDin_capClmul (n : Nat) : (s.dropDin n).capClmul = s.capClmul := rfl
@[simp] theorem State.dropDin_fault (n : Nat) : (s.dropDin n).fault = s.fault := rfl
@[simp] theorem State.dropDin_fcode (n : Nat) : (s.dropDin n).fcode = s.fcode := rfl
@[simp] theorem State.dropDin_fcmd (n : Nat) : (s.dropDin n).fcmd = s.fcmd := rfl
@[simp] theorem State.dropDin_cmd (n : Nat) : (s.dropDin n).cmd = s.cmd := rfl
@[simp] theorem State.dropDin_din (n : Nat) : (s.dropDin n).din = s.din.drop n := rfl
@[simp] theorem State.dropDin_dout (n : Nat) : (s.dropDin n).dout = s.dout := rfl
@[simp] theorem State.dropDin_rsp (n : Nat) : (s.dropDin n).rsp = s.rsp := rfl

@[simp] theorem State.pushDout_p (B : Bytes) : (s.pushDout B).p = s.p := rfl
@[simp] theorem State.pushDout_g (B : Bytes) : (s.pushDout B).g = s.g := rfl
@[simp] theorem State.pushDout_capClmul (B : Bytes) : (s.pushDout B).capClmul = s.capClmul := rfl
@[simp] theorem State.pushDout_fault (B : Bytes) : (s.pushDout B).fault = s.fault := rfl
@[simp] theorem State.pushDout_fcode (B : Bytes) : (s.pushDout B).fcode = s.fcode := rfl
@[simp] theorem State.pushDout_fcmd (B : Bytes) : (s.pushDout B).fcmd = s.fcmd := rfl
@[simp] theorem State.pushDout_cmd (B : Bytes) : (s.pushDout B).cmd = s.cmd := rfl
@[simp] theorem State.pushDout_din (B : Bytes) : (s.pushDout B).din = s.din := rfl
@[simp] theorem State.pushDout_dout (B : Bytes) : (s.pushDout B).dout = s.dout ++ B := rfl
@[simp] theorem State.pushDout_rsp (B : Bytes) : (s.pushDout B).rsp = s.rsp := rfl

@[simp] theorem State.pushRsp_p (w : Word) : (s.pushRsp w).p = s.p := rfl
@[simp] theorem State.pushRsp_g (w : Word) : (s.pushRsp w).g = s.g := rfl
@[simp] theorem State.pushRsp_capClmul (w : Word) : (s.pushRsp w).capClmul = s.capClmul := rfl
@[simp] theorem State.pushRsp_fault (w : Word) : (s.pushRsp w).fault = s.fault := rfl
@[simp] theorem State.pushRsp_fcode (w : Word) : (s.pushRsp w).fcode = s.fcode := rfl
@[simp] theorem State.pushRsp_fcmd (w : Word) : (s.pushRsp w).fcmd = s.fcmd := rfl
@[simp] theorem State.pushRsp_cmd (w : Word) : (s.pushRsp w).cmd = s.cmd := rfl
@[simp] theorem State.pushRsp_din (w : Word) : (s.pushRsp w).din = s.din := rfl
@[simp] theorem State.pushRsp_dout (w : Word) : (s.pushRsp w).dout = s.dout := rfl
@[simp] theorem State.pushRsp_rsp (w : Word) : (s.pushRsp w).rsp = s.rsp ++ [w] := rfl

@[simp] theorem State.setP_p (p : PolyCtx) : (s.setP p).p = p := rfl
@[simp] theorem State.setP_g (p : PolyCtx) : (s.setP p).g = s.g := rfl
@[simp] theorem State.setP_capClmul (p : PolyCtx) : (s.setP p).capClmul = s.capClmul := rfl
@[simp] theorem State.setP_fault (p : PolyCtx) : (s.setP p).fault = s.fault := rfl
@[simp] theorem State.setP_fcode (p : PolyCtx) : (s.setP p).fcode = s.fcode := rfl
@[simp] theorem State.setP_fcmd (p : PolyCtx) : (s.setP p).fcmd = s.fcmd := rfl
@[simp] theorem State.setP_cmd (p : PolyCtx) : (s.setP p).cmd = s.cmd := rfl
@[simp] theorem State.setP_din (p : PolyCtx) : (s.setP p).din = s.din := rfl
@[simp] theorem State.setP_dout (p : PolyCtx) : (s.setP p).dout = s.dout := rfl
@[simp] theorem State.setP_rsp (p : PolyCtx) : (s.setP p).rsp = s.rsp := rfl

@[simp] theorem State.setG_p (g : GhashCtx) : (s.setG g).p = s.p := rfl
@[simp] theorem State.setG_g (g : GhashCtx) : (s.setG g).g = g := rfl
@[simp] theorem State.setG_capClmul (g : GhashCtx) : (s.setG g).capClmul = s.capClmul := rfl
@[simp] theorem State.setG_fault (g : GhashCtx) : (s.setG g).fault = s.fault := rfl
@[simp] theorem State.setG_fcode (g : GhashCtx) : (s.setG g).fcode = s.fcode := rfl
@[simp] theorem State.setG_fcmd (g : GhashCtx) : (s.setG g).fcmd = s.fcmd := rfl
@[simp] theorem State.setG_cmd (g : GhashCtx) : (s.setG g).cmd = s.cmd := rfl
@[simp] theorem State.setG_din (g : GhashCtx) : (s.setG g).din = s.din := rfl
@[simp] theorem State.setG_dout (g : GhashCtx) : (s.setG g).dout = s.dout := rfl
@[simp] theorem State.setG_rsp (g : GhashCtx) : (s.setG g).rsp = s.rsp := rfl

@[simp] theorem State.wipeP_p : (s.wipeP).p = PolyCtx.zero := rfl
@[simp] theorem State.wipeP_g : (s.wipeP).g = s.g := rfl
@[simp] theorem State.wipeP_capClmul : (s.wipeP).capClmul = s.capClmul := rfl
@[simp] theorem State.wipeP_fault : (s.wipeP).fault = s.fault := rfl
@[simp] theorem State.wipeP_fcode : (s.wipeP).fcode = s.fcode := rfl
@[simp] theorem State.wipeP_fcmd : (s.wipeP).fcmd = s.fcmd := rfl
@[simp] theorem State.wipeP_cmd : (s.wipeP).cmd = s.cmd := rfl
@[simp] theorem State.wipeP_din : (s.wipeP).din = s.din := rfl
@[simp] theorem State.wipeP_dout : (s.wipeP).dout = s.dout := rfl
@[simp] theorem State.wipeP_rsp : (s.wipeP).rsp = s.rsp := rfl

@[simp] theorem State.wipeG_p : (s.wipeG).p = s.p := rfl
@[simp] theorem State.wipeG_g : (s.wipeG).g = GhashCtx.zero := rfl
@[simp] theorem State.wipeG_capClmul : (s.wipeG).capClmul = s.capClmul := rfl
@[simp] theorem State.wipeG_fault : (s.wipeG).fault = s.fault := rfl
@[simp] theorem State.wipeG_fcode : (s.wipeG).fcode = s.fcode := rfl
@[simp] theorem State.wipeG_fcmd : (s.wipeG).fcmd = s.fcmd := rfl
@[simp] theorem State.wipeG_cmd : (s.wipeG).cmd = s.cmd := rfl
@[simp] theorem State.wipeG_din : (s.wipeG).din = s.din := rfl
@[simp] theorem State.wipeG_dout : (s.wipeG).dout = s.dout := rfl
@[simp] theorem State.wipeG_rsp : (s.wipeG).rsp = s.rsp := rfl

@[simp] theorem State.recordFault_p (c : FaultCause) (w : Word) : (s.recordFault c w).p = s.p := rfl
@[simp] theorem State.recordFault_g (c : FaultCause) (w : Word) : (s.recordFault c w).g = s.g := rfl
@[simp] theorem State.recordFault_capClmul (c : FaultCause) (w : Word) : (s.recordFault c w).capClmul = s.capClmul := rfl
@[simp] theorem State.recordFault_fault (c : FaultCause) (w : Word) : (s.recordFault c w).fault = true := rfl
@[simp] theorem State.recordFault_fcode (c : FaultCause) (w : Word) : (s.recordFault c w).fcode = c.code := rfl
@[simp] theorem State.recordFault_fcmd (c : FaultCause) (w : Word) : (s.recordFault c w).fcmd = w := rfl
@[simp] theorem State.recordFault_cmd (c : FaultCause) (w : Word) : (s.recordFault c w).cmd = s.cmd := rfl
@[simp] theorem State.recordFault_din (c : FaultCause) (w : Word) : (s.recordFault c w).din = s.din := rfl
@[simp] theorem State.recordFault_dout (c : FaultCause) (w : Word) : (s.recordFault c w).dout = s.dout := rfl
@[simp] theorem State.recordFault_rsp (c : FaultCause) (w : Word) : (s.recordFault c w).rsp = s.rsp := rfl

@[simp] theorem State.takeFault_p (c : FaultCause) (w : Word) : (s.takeFault c w).p = PolyCtx.zero := rfl
@[simp] theorem State.takeFault_g (c : FaultCause) (w : Word) : (s.takeFault c w).g = GhashCtx.zero := rfl
@[simp] theorem State.takeFault_capClmul (c : FaultCause) (w : Word) : (s.takeFault c w).capClmul = s.capClmul := rfl
@[simp] theorem State.takeFault_fault (c : FaultCause) (w : Word) : (s.takeFault c w).fault = true := rfl
@[simp] theorem State.takeFault_fcode (c : FaultCause) (w : Word) : (s.takeFault c w).fcode = c.code := rfl
@[simp] theorem State.takeFault_fcmd (c : FaultCause) (w : Word) : (s.takeFault c w).fcmd = w := rfl
@[simp] theorem State.takeFault_cmd (c : FaultCause) (w : Word) : (s.takeFault c w).cmd = s.cmd := rfl
@[simp] theorem State.takeFault_din (c : FaultCause) (w : Word) : (s.takeFault c w).din = s.din := rfl
@[simp] theorem State.takeFault_dout (c : FaultCause) (w : Word) : (s.takeFault c w).dout = s.dout := rfl
@[simp] theorem State.takeFault_rsp (c : FaultCause) (w : Word) : (s.takeFault c w).rsp = s.rsp ++ [response (opcOf w) (codeFault c)] := rfl

@[simp] theorem State.pushCmd_p (w : Word) : (s.pushCmd w).p = s.p := rfl
@[simp] theorem State.pushCmd_g (w : Word) : (s.pushCmd w).g = s.g := rfl
@[simp] theorem State.pushCmd_capClmul (w : Word) : (s.pushCmd w).capClmul = s.capClmul := rfl
@[simp] theorem State.pushCmd_fault (w : Word) : (s.pushCmd w).fault = s.fault := rfl
@[simp] theorem State.pushCmd_fcode (w : Word) : (s.pushCmd w).fcode = s.fcode := rfl
@[simp] theorem State.pushCmd_fcmd (w : Word) : (s.pushCmd w).fcmd = s.fcmd := rfl
@[simp] theorem State.pushCmd_cmd (w : Word) : (s.pushCmd w).cmd = s.cmd ++ [w] := rfl
@[simp] theorem State.pushCmd_din (w : Word) : (s.pushCmd w).din = s.din := rfl
@[simp] theorem State.pushCmd_dout (w : Word) : (s.pushCmd w).dout = s.dout := rfl
@[simp] theorem State.pushCmd_rsp (w : Word) : (s.pushCmd w).rsp = s.rsp := rfl

@[simp] theorem State.pushDin_p (B : Bytes) : (s.pushDin B).p = s.p := rfl
@[simp] theorem State.pushDin_g (B : Bytes) : (s.pushDin B).g = s.g := rfl
@[simp] theorem State.pushDin_capClmul (B : Bytes) : (s.pushDin B).capClmul = s.capClmul := rfl
@[simp] theorem State.pushDin_fault (B : Bytes) : (s.pushDin B).fault = s.fault := rfl
@[simp] theorem State.pushDin_fcode (B : Bytes) : (s.pushDin B).fcode = s.fcode := rfl
@[simp] theorem State.pushDin_fcmd (B : Bytes) : (s.pushDin B).fcmd = s.fcmd := rfl
@[simp] theorem State.pushDin_cmd (B : Bytes) : (s.pushDin B).cmd = s.cmd := rfl
@[simp] theorem State.pushDin_din (B : Bytes) : (s.pushDin B).din = s.din ++ B := rfl
@[simp] theorem State.pushDin_dout (B : Bytes) : (s.pushDin B).dout = s.dout := rfl
@[simp] theorem State.pushDin_rsp (B : Bytes) : (s.pushDin B).rsp = s.rsp := rfl

/-- Reset forgets the state it comes from. -/
@[simp] theorem State.resetInput_eq (cap : Bool) : s.resetInput cap = State.resetWith cap := rfl

@[simp] theorem State.resetWith_fault (cap : Bool) : (State.resetWith cap).fault = false := rfl

@[simp] theorem State.resetWith_capClmul (cap : Bool) : (State.resetWith cap).capClmul = cap := rfl

end Sys2Proof.Machine
end

