-- ==== Sys2Proof/Laws/Ops.lean ====
section
/-! SUPPORT. What each shared operation can do, said once: issuing a command, taking a fault, the checks in order; and that
every command is issued the same way. -/

namespace Sys2Proof.Machine

@[simp] theorem firstFault_nil : firstFault [] = none := rfl

@[simp] theorem firstFault_cons (b : Bool) (c : FaultCause) (rest : List (Bool × FaultCause)) :
    firstFault ((b, c) :: rest) = if b then firstFault rest else some c := rfl

/-- A failing check takes its fault, with no payload read (`30_encoding.md` R95). -/
theorem issue_fault {w : Word} {len : BitVec 16} {check : Option FaultCause} {c : FaultCause} (s : State)
    (rule : Bytes → State → State) (h : check = some c) :
    issue w len check s rule = .next (s.popCmd.takeFault c w) := by
  subst h; rfl

/-- A short DIN holds the command (`20_memory.md` R72). -/
theorem issue_hold {w : Word} {len : BitVec 16} {check : Option FaultCause} (s : State)
    (rule : Bytes → State → State) (h : check = none) (hd : s.din.length < len.toNat) :
    issue w len check s rule = .next s := by
  subst h; simp [issue, hd]

/-- Otherwise the rule runs on the payload. -/
theorem issue_run {w : Word} {len : BitVec 16} {check : Option FaultCause} (s : State)
    (rule : Bytes → State → State) (h : check = none) (hd : len.toNat ≤ s.din.length) :
    issue w len check s rule = .next (rule (s.din.take len.toNat) (s.popCmd.dropDin len.toNat)) := by
  subst h; simp [issue, Nat.not_lt.mpr hd]

/-- Everything issuing a command can do. -/
theorem issue_cases {w : Word} {len : BitVec 16} {check : Option FaultCause} {s t : State}
    {rule : Bytes → State → State} (h : issue w len check s rule = .next t) :
    (∃ c, check = some c ∧ t = s.popCmd.takeFault c w)
    ∨ (check = none ∧ s.din.length < len.toNat ∧ t = s)
    ∨ (check = none ∧ len.toNat ≤ s.din.length
        ∧ t = rule (s.din.take len.toNat) (s.popCmd.dropDin len.toNat)) := by
  cases hc : check with
  | some c =>
    rw [issue_fault s rule hc] at h
    exact .inl ⟨c, rfl, (Host.Outcome.next.inj h).symm⟩
  | none =>
    by_cases hd : s.din.length < len.toNat
    · rw [issue_hold s rule hc hd] at h
      exact .inr (.inl ⟨rfl, hd, (Host.Outcome.next.inj h).symm⟩)
    · rw [issue_run s rule hc (Nat.not_lt.mp hd)] at h
      exact .inr (.inr ⟨rfl, Nat.not_lt.mp hd, (Host.Outcome.next.inj h).symm⟩)

/-- Issuing a command always answers a next state. -/
theorem issue_next (w : Word) (len : BitVec 16) (check : Option FaultCause) (s : State)
    (rule : Bytes → State → State) : ∃ t, issue w len check s rule = .next t := by
  cases hc : check with
  | some c => exact ⟨_, issue_fault s rule rfl⟩
  | none =>
    by_cases hd : s.din.length < len.toNat
    · exact ⟨_, issue_hold s rule rfl hd⟩
    · exact ⟨_, issue_run s rule rfl (Nat.not_lt.mp hd)⟩

/-- Fault entry, field by field (`60_exceptions.md` R306). -/
theorem State.takeFault_eq (c : FaultCause) (w : Word) (s : State) :
    s.takeFault c w =
      { s with
        p := PolyCtx.zero, g := GhashCtx.zero, fault := true, fcode := c.code, fcmd := w
        rsp := s.rsp ++ [response (opcOf w) (codeFault c)] } := rfl

end Sys2Proof.Machine
end

