-- ==== Sys2Proof/Laws/Dispatch.lean ====
section
/-! SUPPORT. Every command is issued in the same way: its word, its `LEN`, its checks and its rule. -/

namespace Sys2Proof.Machine

/-- The rule of each command: what it does with its payload once its checks pass. -/
def ruleOf (i : Instr) (D : Bytes) (t : State) : State :=
  match i with
  | .nop _ _ => t.pushRsp (response 0x00#8 codeOk)
  | .rdsr arg _ => (t.pushDout (statusBytes arg t)).pushRsp (response 0x01#8 codeOk)
  | .ctmask _ _ => (t.pushDout (le32 (ctMask32 (wordAt D 0) (wordAt D 4)))).pushRsp (response 0x10#8 codeOk)
  | .ctsel _ _ =>
    (t.pushDout (le32 (ctSel32 (wordAt D 0) (wordAt D 4) (wordAt D 8)))).pushRsp (response 0x11#8 codeOk)
  | .cteq _ len =>
    t.pushRsp (response 0x12#8
      (if ctEq (slice D 0 (halfLen len)) (slice D (halfLen len) (halfLen len)) then codeOk else codeAuthFail))
  | .wipe arg _ => (t.wipeSelected arg).pushRsp (response 0x13#8 codeOk)
  | .pinit _ _ => (t.wipeP.setP (PolyCtx.init D)).pushRsp (response 0x20#8 codeOk)
  | .pupd _ _ => (t.setP (t.p.update D)).pushRsp (response 0x21#8 codeOk)
  | .pfin _ _ => ((t.pushDout t.p.tag).wipeP).pushRsp (response 0x22#8 codeOk)
  | .ginit _ _ => (t.wipeG.setG (GhashCtx.init (blockAt D 0) t.capClmul)).pushRsp (response 0x30#8 codeOk)
  | .gaad _ len => (t.setG (t.g.addAad len D)).pushRsp (response 0x31#8 codeOk)
  | .gciph _ len => (t.setG (t.g.addCipher len D)).pushRsp (response 0x32#8 codeOk)
  | .gfin _ _ => ((t.pushDout t.g.value).wipeG).pushRsp (response 0x33#8 codeOk)
  | .gtag arg _ =>
    (t.pushDout ((xorBlock (blockAt D 0) (blockAt D 16)).toList.take arg.toNat)).pushRsp (response 0x34#8 codeOk)
  | .gfmul arg _ =>
    (t.pushDout (gMul (arg.getLsbD 0) (blockAt D 0) (blockAt D 16)).toList).pushRsp (response 0x35#8 codeOk)

/-- Executing any command is issuing it with its checks and its rule. -/
theorem exec_eq_issue (i : Instr) (s : State) :
    exec i s = issue (encode i) i.len (commandFault i s) s (ruleOf i) := by
  cases i <;> rfl

/-- A command whose check fails takes that fault. -/
theorem exec_fault {i : Instr} {s : State} {c : FaultCause} (h : commandFault i s = some c) :
    exec i s = .next (s.popCmd.takeFault c (encode i)) := by
  rw [exec_eq_issue, issue_fault s _ h]

/-- A command that will not fault holds while its payload is short. -/
theorem exec_hold {i : Instr} {s : State} (h : commandFault i s = none) (hd : s.din.length < i.len.toNat) :
    exec i s = .next s := by
  rw [exec_eq_issue, issue_hold s _ h hd]

/-- A command whose checks pass and whose payload is there runs its rule. -/
theorem exec_run {i : Instr} {s : State} (h : commandFault i s = none) (hd : i.len.toNat ≤ s.din.length) :
    exec i s = .next (ruleOf i (s.din.take i.len.toNat) (s.popCmd.dropDin i.len.toNat)) := by
  rw [exec_eq_issue, issue_run s _ h hd]

/-- Everything executing a command can do. -/
theorem exec_cases {i : Instr} {s t : State} (h : exec i s = .next t) :
    (∃ c, commandFault i s = some c ∧ t = s.popCmd.takeFault c (encode i))
    ∨ (commandFault i s = none ∧ s.din.length < i.len.toNat ∧ t = s)
    ∨ (commandFault i s = none ∧ i.len.toNat ≤ s.din.length
        ∧ t = ruleOf i (s.din.take i.len.toNat) (s.popCmd.dropDin i.len.toNat)) := by
  rw [exec_eq_issue] at h
  exact issue_cases h

/-- What a wipe of the selected contexts leaves alone. -/
theorem State.wipeSelected_frame (arg : BitVec 8) (t : State) :
    (t.wipeSelected arg).cmd = t.cmd ∧ (t.wipeSelected arg).din = t.din ∧ (t.wipeSelected arg).dout = t.dout
      ∧ (t.wipeSelected arg).rsp = t.rsp ∧ (t.wipeSelected arg).capClmul = t.capClmul
      ∧ (t.wipeSelected arg).fault = t.fault ∧ (t.wipeSelected arg).fcode = t.fcode
      ∧ (t.wipeSelected arg).fcmd = t.fcmd := by
  unfold State.wipeSelected
  dsimp only
  split <;> split <;> exact ⟨rfl, rfl, rfl, rfl, rfl, rfl, rfl, rfl⟩

/-- The two contexts after a wipe of the selected ones (`40_ct_primitives.md` R135). -/
theorem State.wipeSelected_contexts (arg : BitVec 8) (t : State) :
    (t.wipeSelected arg).p = (if arg.getLsbD 0 then PolyCtx.zero else t.p)
      ∧ (t.wipeSelected arg).g = (if arg.getLsbD 1 then GhashCtx.zero else t.g) := by
  unfold State.wipeSelected
  dsimp only
  split <;> split <;> exact ⟨rfl, rfl⟩

/-- No command's rule touches CMD, DIN, the strap or the fault record. -/
theorem ruleOf_frame (i : Instr) (D : Bytes) (t : State) :
    (ruleOf i D t).cmd = t.cmd ∧ (ruleOf i D t).din = t.din ∧ (ruleOf i D t).capClmul = t.capClmul
      ∧ (ruleOf i D t).fault = t.fault ∧ (ruleOf i D t).fcode = t.fcode ∧ (ruleOf i D t).fcmd = t.fcmd := by
  cases i with
  | wipe arg len =>
    obtain ⟨h1, h2, -, -, h5, h6, h7, h8⟩ := State.wipeSelected_frame arg t
    exact ⟨h1, h2, h5, h6, h7, h8⟩
  | _ =>
    simp only [ruleOf, State.wipeP, State.wipeG, State.pushRsp_cmd, State.pushRsp_din, State.pushRsp_capClmul,
      State.pushRsp_fault, State.pushRsp_fcode, State.pushRsp_fcmd, State.pushDout_cmd, State.pushDout_din,
      State.pushDout_capClmul, State.pushDout_fault, State.pushDout_fcode, State.pushDout_fcmd, State.setP_cmd,
      State.setP_din, State.setP_capClmul, State.setP_fault, State.setP_fcode, State.setP_fcmd, State.setG_cmd,
      State.setG_din, State.setG_capClmul, State.setG_fault, State.setG_fcode, State.setG_fcmd, and_self]

/-- Every rule pushes one response, `OK`, or `AUTH_FAIL` for CTEQ alone (`30_encoding.md` R96, R97). -/
theorem ruleOf_rsp (i : Instr) (D : Bytes) (t : State) :
    ∃ c, (ruleOf i D t).rsp = t.rsp ++ [response i.opc c]
      ∧ (c = codeOk ∨ (c = codeAuthFail ∧ i.opc = 0x12#8)) := by
  cases i with
  | wipe arg len =>
    refine ⟨codeOk, ?_, .inl rfl⟩
    obtain ⟨-, -, -, h4, -⟩ := State.wipeSelected_frame arg t
    simp only [ruleOf, State.pushRsp_rsp, h4]
    rfl
  | cteq arg len =>
    simp only [ruleOf, State.pushRsp_rsp]
    split
    · exact ⟨codeOk, rfl, .inl rfl⟩
    · exact ⟨codeAuthFail, rfl, .inr ⟨rfl, rfl⟩⟩
  | _ =>
    refine ⟨codeOk, ?_, .inl rfl⟩
    simp only [ruleOf, State.wipeP, State.wipeG, State.pushRsp_rsp, State.pushDout_rsp, State.setP_rsp, State.setG_rsp]
    rfl

/-- A command's checks read the two contexts alone. -/
theorem commandFault_congr (i : Instr) {s t : State} (hp : t.p.active = s.p.active) (hg : t.g.phase = s.g.phase) :
    commandFault i t = commandFault i s := by
  cases i <;> simp only [commandFault, pupdCheck, pfinCheck, gaadCheck, gciphCheck, gfinCheck, hp, hg]

end Sys2Proof.Machine
end

