-- ==== Sys2Proof/Laws/Encoding.lean ====
section
/-! SUPPORT. The fields of a command word as arithmetic on its number. -/

namespace Sys2Proof

section Fields

/-! Each field of each command. -/

variable (a : BitVec 8) (l : BitVec 16)

@[simp] theorem Instr.arg_nop : (Instr.nop a l).arg = a := rfl
@[simp] theorem Instr.len_nop : (Instr.nop a l).len = l := rfl
@[simp] theorem Instr.arg_rdsr : (Instr.rdsr a l).arg = a := rfl
@[simp] theorem Instr.len_rdsr : (Instr.rdsr a l).len = l := rfl
@[simp] theorem Instr.arg_ctmask : (Instr.ctmask a l).arg = a := rfl
@[simp] theorem Instr.len_ctmask : (Instr.ctmask a l).len = l := rfl
@[simp] theorem Instr.arg_ctsel : (Instr.ctsel a l).arg = a := rfl
@[simp] theorem Instr.len_ctsel : (Instr.ctsel a l).len = l := rfl
@[simp] theorem Instr.arg_cteq : (Instr.cteq a l).arg = a := rfl
@[simp] theorem Instr.len_cteq : (Instr.cteq a l).len = l := rfl
@[simp] theorem Instr.arg_wipe : (Instr.wipe a l).arg = a := rfl
@[simp] theorem Instr.len_wipe : (Instr.wipe a l).len = l := rfl
@[simp] theorem Instr.arg_pinit : (Instr.pinit a l).arg = a := rfl
@[simp] theorem Instr.len_pinit : (Instr.pinit a l).len = l := rfl
@[simp] theorem Instr.arg_pupd : (Instr.pupd a l).arg = a := rfl
@[simp] theorem Instr.len_pupd : (Instr.pupd a l).len = l := rfl
@[simp] theorem Instr.arg_pfin : (Instr.pfin a l).arg = a := rfl
@[simp] theorem Instr.len_pfin : (Instr.pfin a l).len = l := rfl
@[simp] theorem Instr.arg_ginit : (Instr.ginit a l).arg = a := rfl
@[simp] theorem Instr.len_ginit : (Instr.ginit a l).len = l := rfl
@[simp] theorem Instr.arg_gaad : (Instr.gaad a l).arg = a := rfl
@[simp] theorem Instr.len_gaad : (Instr.gaad a l).len = l := rfl
@[simp] theorem Instr.arg_gciph : (Instr.gciph a l).arg = a := rfl
@[simp] theorem Instr.len_gciph : (Instr.gciph a l).len = l := rfl
@[simp] theorem Instr.arg_gfin : (Instr.gfin a l).arg = a := rfl
@[simp] theorem Instr.len_gfin : (Instr.gfin a l).len = l := rfl
@[simp] theorem Instr.arg_gtag : (Instr.gtag a l).arg = a := rfl
@[simp] theorem Instr.len_gtag : (Instr.gtag a l).len = l := rfl
@[simp] theorem Instr.arg_gfmul : (Instr.gfmul a l).arg = a := rfl
@[simp] theorem Instr.len_gfmul : (Instr.gfmul a l).len = l := rfl

end Fields

/-- The number of a word made of three fields (`30_encoding.md` R101). -/
theorem encodeFields_toNat (o a : BitVec 8) (l : BitVec 16) :
    (encodeFields o a l).toNat = o.toNat * 2 ^ 24 + a.toNat * 2 ^ 16 + l.toNat := by
  have ho := o.isLt
  have ha := a.isLt
  have hl := l.isLt
  simp only [encodeFields, BitVec.toNat_or, BitVec.toNat_shiftLeft, BitVec.toNat_setWidth, Nat.shiftLeft_eq]
  rw [Nat.mod_eq_of_lt (show l.toNat < 2 ^ 32 by omega), Nat.mod_eq_of_lt (show o.toNat < 2 ^ 32 by omega),
    Nat.mod_eq_of_lt (show a.toNat < 2 ^ 32 by omega), Nat.mod_eq_of_lt (show o.toNat * 2 ^ 24 < 2 ^ 32 by omega),
    Nat.mod_eq_of_lt (show a.toNat * 2 ^ 16 < 2 ^ 32 by omega), ← Nat.shiftLeft_eq o.toNat,
    ← Nat.shiftLeft_add_eq_or_of_lt (show a.toNat * 2 ^ 16 < 2 ^ 24 by omega), Nat.shiftLeft_eq,
    show o.toNat * 2 ^ 24 + a.toNat * 2 ^ 16 = (o.toNat * 2 ^ 8 + a.toNat) <<< 16 by rw [Nat.shiftLeft_eq]; omega,
    ← Nat.shiftLeft_add_eq_or_of_lt (show l.toNat < 2 ^ 16 by omega)]

theorem opcOf_toNat (w : Word) : (opcOf w).toNat = w.toNat / 2 ^ 24 := by
  have := w.isLt
  simp only [opcOf, BitVec.extractLsb'_toNat, Nat.shiftRight_eq_div_pow]
  omega

theorem argOf_toNat (w : Word) : (argOf w).toNat = w.toNat / 2 ^ 16 % 2 ^ 8 := by
  simp only [argOf, BitVec.extractLsb'_toNat, Nat.shiftRight_eq_div_pow]

theorem lenOf_toNat (w : Word) : (lenOf w).toNat = w.toNat % 2 ^ 16 := by
  simp only [lenOf, BitVec.extractLsb'_toNat, Nat.shiftRight_eq_div_pow, Nat.pow_zero, Nat.div_one]

theorem opcOf_encodeFields (o a : BitVec 8) (l : BitVec 16) : opcOf (encodeFields o a l) = o := by
  apply BitVec.eq_of_toNat_eq
  have := a.isLt
  have := l.isLt
  rw [opcOf_toNat, encodeFields_toNat]
  omega

theorem argOf_encodeFields (o a : BitVec 8) (l : BitVec 16) : argOf (encodeFields o a l) = a := by
  apply BitVec.eq_of_toNat_eq
  have := a.isLt
  have := l.isLt
  rw [argOf_toNat, encodeFields_toNat]
  omega

theorem lenOf_encodeFields (o a : BitVec 8) (l : BitVec 16) : lenOf (encodeFields o a l) = l := by
  apply BitVec.eq_of_toNat_eq
  have := l.isLt
  rw [lenOf_toNat, encodeFields_toNat]
  omega

/-- A word is made of its three fields. -/
theorem encodeFields_of_word (w : Word) : encodeFields (opcOf w) (argOf w) (lenOf w) = w := by
  apply BitVec.eq_of_toNat_eq
  rw [encodeFields_toNat, opcOf_toNat, argOf_toNat, lenOf_toNat]
  omega

theorem opcOf_encode (i : Instr) : opcOf (encode i) = i.opc := opcOf_encodeFields _ _ _

theorem argOf_encode (i : Instr) : argOf (encode i) = i.arg := argOf_encodeFields _ _ _

theorem lenOf_encode (i : Instr) : lenOf (encode i) = i.len := lenOf_encodeFields _ _ _

end Sys2Proof
end

