-- ==== Sys2Proof/Laws/Effects.lean ====
section
/-! SUPPORT. The effect of a completed command, taken apart: what it makes of each context, the bytes it pushes and its
completion code, each a function of the payload and of the two contexts and the strap alone. -/

namespace Sys2Proof.Machine

/-- `P` after a completed command. -/
def polyAfter (i : Instr) (D : Bytes) (p : PolyCtx) : PolyCtx :=
  match i with
  | .wipe arg _ => if arg.getLsbD 0 then PolyCtx.zero else p
  | .pinit _ _ => PolyCtx.init D
  | .pupd _ _ => p.update D
  | .pfin _ _ => PolyCtx.zero
  | _ => p

/-- `G` after a completed command. -/
def ghashAfter (i : Instr) (D : Bytes) (cap : Bool) (g : GhashCtx) : GhashCtx :=
  match i with
  | .wipe arg _ => if arg.getLsbD 1 then GhashCtx.zero else g
  | .ginit _ _ => GhashCtx.init (blockAt D 0) cap
  | .gaad _ len => g.addAad len D
  | .gciph _ len => g.addCipher len D
  | .gfin _ _ => GhashCtx.zero
  | _ => g

/-- The bytes a completed command pushes. -/
def outOf (i : Instr) (D : Bytes) (t : State) : Bytes :=
  match i with
  | .rdsr arg _ => statusBytes arg t
  | .ctmask _ _ => le32 (ctMask32 (wordAt D 0) (wordAt D 4))
  | .ctsel _ _ => le32 (ctSel32 (wordAt D 0) (wordAt D 4) (wordAt D 8))
  | .pfin _ _ => t.p.tag
  | .gfin _ _ => t.g.value
  | .gtag arg _ => (xorBlock (blockAt D 0) (blockAt D 16)).toList.take arg.toNat
  | .gfmul arg _ => (gMul (arg.getLsbD 0) (blockAt D 0) (blockAt D 16)).toList
  | _ => []

/-- The completion code of a completed command. -/
def codeOf (i : Instr) (D : Bytes) : BitVec 8 :=
  match i with
  | .cteq _ len => if ctEq (slice D 0 (halfLen len)) (slice D (halfLen len) (halfLen len)) then codeOk else codeAuthFail
  | _ => codeOk

theorem State.pushDout_nil (t : State) : t.pushDout [] = t := by
  unfold State.pushDout
  rw [List.append_nil]

theorem State.setP_self (t : State) : t.setP t.p = t := rfl

theorem State.setG_self (t : State) : t.setG t.g = t := rfl

/-- A rule is its four effects. -/
theorem ruleOf_eq (i : Instr) (D : Bytes) (t : State) :
    ruleOf i D t = (((t.pushDout (outOf i D t)).setP (polyAfter i D t.p)).setG (ghashAfter i D t.capClmul t.g)).pushRsp
      (response i.opc (codeOf i D)) := by
  cases i with
  | wipe arg len =>
    simp only [ruleOf, outOf, polyAfter, ghashAfter, codeOf, State.pushDout_nil, State.wipeSelected]
    split <;> split <;> rfl
  | _ => simp only [ruleOf, outOf, polyAfter, ghashAfter, codeOf, State.pushDout_nil]; rfl

/-- Field by field, what a completed command leaves. -/
theorem exec_effects {i : Instr} {s : State} (h : commandFault i s = none) (hd : i.len.toNat ≤ s.din.length) :
    exec i s = .next
      { s with
        p := polyAfter i (s.din.take i.len.toNat) s.p
        g := ghashAfter i (s.din.take i.len.toNat) s.capClmul s.g
        cmd := s.cmd.tail
        din := s.din.drop i.len.toNat
        dout := s.dout ++ outOf i (s.din.take i.len.toNat) (s.popCmd.dropDin i.len.toNat)
        rsp := s.rsp ++ [response i.opc (codeOf i (s.din.take i.len.toNat))] } := by
  rw [exec_run h hd, ruleOf_eq]
  rfl

/-- The bytes a command pushes depend on the two contexts and the strap alone. -/
theorem outOf_congr (i : Instr) (D : Bytes) {s t : State} (hp : t.p = s.p) (hg : t.g = s.g)
    (hc : t.capClmul = s.capClmul) : outOf i D t = outOf i D s := by
  cases i <;> simp only [outOf, hp, hg, statusBytes, statusReg, cfgWord, statusWord, hc]

end Sys2Proof.Machine
end

