-- ==== Sys2Proof/Laws/Checks.lean ====
section
/-! SUPPORT. When a command's checks pass, and the fields of a response word. -/

namespace Sys2Proof.Machine

/-- A command raises no fault exactly when its two fields are legal and its context is ready (`60_exceptions.md` R303). -/
theorem commandFault_none_iff (i : Instr) (s : State) :
    commandFault i s = none ↔ i.wf = true ∧ s.ready i = true := by
  cases i <;> cases hph : s.g.phase <;>
  simp [hph, commandFault, nopCheck, rdsrCheck, ctmaskCheck, ctselCheck, cteqCheck, wipeCheck, pinitCheck, pupdCheck,
    pfinCheck, ginitCheck, gaadCheck, gciphCheck, gfinCheck, gtagCheck, gfmulCheck, Instr.wf, Instr.argLegal,
    Instr.lenLegal, State.ready, argUnused, argIn, lenIs, lenPairs, ← BitVec.toNat_inj]
  all_goals (try grind)

/-- A response is a word whose `ARG` field is zero and whose `LEN` field is the code (`30_encoding.md` R96). -/
theorem response_eq (opc code : BitVec 8) : response opc code = encodeFields opc 0#8 (code.setWidth 16) := by
  simp [response, encodeFields]

theorem opcOf_response (opc code : BitVec 8) : opcOf (response opc code) = opc := by
  rw [response_eq, opcOf_encodeFields]

end Sys2Proof.Machine
end

