-- ==== Sys2Proof/Laws/Engines.lean ====
section
/-! SUPPORT. What absorbing a run of blocks does to each context: one register moves, the others stay. -/

namespace Sys2Proof.Machine

/-- Absorbing blocks moves `P.h` alone (`42_poly1305.md` R179). -/
theorem PolyCtx.foldl_blockFull (Bs : List Block) (p : PolyCtx) :
    Bs.foldl PolyCtx.blockFull p = { p with h := Bs.foldl (fun h B => pAbsorb p.r h (fullBlock B)) p.h } := by
  induction Bs generalizing p with
  | nil => rfl
  | cons B Bs ih => rw [List.foldl_cons, ih]; rfl

/-- Absorbing blocks moves `G.Y` alone (`43_ghash.md` R218). -/
theorem GhashCtx.foldl_block (Bs : List Block) (g : GhashCtx) :
    Bs.foldl GhashCtx.block g = { g with Y := Bs.foldl (fun Y X => gMul g.backend (xorBlock Y X) g.H) g.Y } := by
  induction Bs generalizing g with
  | nil => rfl
  | cons B Bs ih => rw [List.foldl_cons, ih]; rfl

/-- One payload through the Poly1305 context, register by register (`42_poly1305.md` R184). -/
theorem PolyCtx.update_eq (D : Bytes) (p : PolyCtx) :
    p.update D =
      { p with
        h := (bwa p.buf p.n.toNat D).blocks.foldl (fun h B => pAbsorb p.r h (fullBlock B)) p.h
        buf := (bwa p.buf p.n.toNat D).buf
        n := BitVec.ofNat 5 (bwa p.buf p.n.toNat D).n } := by
  simp only [PolyCtx.update, PolyCtx.foldl_blockFull]

/-- One payload through the GHASH context, register by register (`43_ghash.md` R223). -/
theorem GhashCtx.absorb_eq (D : Bytes) (g : GhashCtx) :
    g.absorb D =
      { g with
        Y := (bwa g.buf g.n.toNat D).blocks.foldl (fun Y X => gMul g.backend (xorBlock Y X) g.H) g.Y
        buf := (bwa g.buf g.n.toNat D).buf
        n := BitVec.ofNat 5 (bwa g.buf g.n.toNat D).n } := by
  simp only [GhashCtx.absorb, GhashCtx.foldl_block]

/-- The zero-padding flush leaves the subkey, the counts, the phase and the backend alone (`43_ghash.md` R219). -/
theorem GhashCtx.pad_frame (g : GhashCtx) :
    g.pad.H = g.H ∧ g.pad.lenAad = g.lenAad ∧ g.pad.lenCt = g.lenCt ∧ g.pad.phase = g.phase
      ∧ g.pad.backend = g.backend := by
  unfold GhashCtx.pad
  split <;> exact ⟨rfl, rfl, rfl, rfl, rfl⟩

/-- Entering `CIPHER` pads, moves the phase and leaves the rest alone; it does nothing outside `AAD` (`43_ghash.md` R224). -/
theorem GhashCtx.enterCipher_frame (g : GhashCtx) :
    g.enterCipher.H = g.H ∧ g.enterCipher.lenAad = g.lenAad ∧ g.enterCipher.lenCt = g.lenCt
      ∧ g.enterCipher.backend = g.backend ∧ (g.phase ≠ .aad → g.enterCipher = g)
      ∧ (g.phase = .aad → g.enterCipher.phase = .cipher) := by
  obtain ⟨h1, h2, h3, -, h5⟩ := g.pad_frame
  unfold GhashCtx.enterCipher
  split
  · exact ⟨h1, h2, h3, h5, fun h => absurd ‹_› h, fun _ => rfl⟩
  · exact ⟨rfl, rfl, rfl, rfl, fun _ => rfl, fun h => absurd h ‹_›⟩

end Sys2Proof.Machine
end

