-- ==== Sys2Proof/Laws/Limbs.lean ====
section
/-! SUPPORT. Byte strings and limb lists as numbers, and what a carry pass computes. -/

namespace Sys2Proof.Machine

theorem lenum_append (a b : Bytes) : lenum (a ++ b) = lenum a + 256 ^ a.length * lenum b := by
  induction a with
  | nil => simp [lenum]
  | cons x xs ih => simp [lenum, ih, pow_succ]; ring

theorem lenum_lt (a : Bytes) : lenum a < 256 ^ a.length := by
  induction a with
  | nil => simp [lenum]
  | cons x xs ih => simp [lenum, pow_succ]; have := x.isLt; omega

theorem valOf_append (a b : List Nat) : valOf (a ++ b) = valOf a + 256 ^ a.length * valOf b := by
  induction a with
  | nil => simp [valOf]
  | cons x xs ih => simp [valOf, ih, pow_succ]; ring

theorem valOf_map_toNat (B : Bytes) : valOf (B.map BitVec.toNat) = lenum B := by
  induction B with
  | nil => rfl
  | cons x xs ih => simp [valOf, lenum, ih]

theorem valOf_map_add (f g : Nat → Nat) (l : List Nat) :
    valOf (l.map fun i => f i + g i) = valOf (l.map f) + valOf (l.map g) := by
  induction l with
  | nil => rfl
  | cons a l ih => simp [valOf, ih]; ring

theorem limb_le (x : Limbs) (k : Nat) : limb x k ≤ 255 := by
  unfold limb
  have := (x.toList.getD k 0#8).isLt
  omega

theorem limbsOf_toList {B : Bytes} (h : B.length = 17) : (limbsOf B).toList = B := by
  apply List.ext_getElem
  · simp [h]
  · intro i hi hi2
    simp [limbsOf, List.getD_eq_getElem?_getD, hi2]

theorem val_limbsOf {B : Bytes} (h : B.length = 17) : val (limbsOf B) = lenum B := by rw [val, limbsOf_toList h]

/-- A limb array is the list of its limbs. -/
theorem limbs_list (x : Limbs) : x.toList.map BitVec.toNat = (List.range 17).map (limb x) := by
  apply List.ext_getElem
  · simp
  · intro i hi hi2
    simp only [List.length_map, Vector.length_toList] at hi
    simp [limb, hi]

theorem val_eq_valOf (x : Limbs) : val x = valOf ((List.range 17).map (limb x)) := by
  rw [← limbs_list, valOf_map_toNat, val]

theorem carryPass_length (c : Nat) (ts : List Nat) : (carryPass c ts).1.length = ts.length := by
  induction ts generalizing c with
  | nil => rfl
  | cons t ts ih => simp [carryPass, ih]

/-- A carry pass moves value into the carry and loses none (`42_poly1305.md` R173, R177). -/
theorem carryPass_val (c : Nat) (ts : List Nat) :
    lenum (carryPass c ts).1 + 256 ^ ts.length * (carryPass c ts).2 = c + valOf ts := by
  induction ts generalizing c with
  | nil => simp [carryPass, lenum, valOf]
  | cons t ts ih =>
    have h := ih ((c + t) / 256)
    have hs : (c + t) >>> 8 = (c + t) / 256 := Nat.shiftRight_eq_div_pow _ _
    have ha : (c + t) &&& 255 = (c + t) % 256 := Nat.and_two_pow_sub_one_eq_mod _ 8
    have hm : (c + t) % 256 % 2 ^ 8 = (c + t) % 256 := Nat.mod_eq_of_lt (by omega)
    simp only [carryPass, lenum, valOf, List.length_cons, hs, ha, BitVec.toNat_ofNat, hm]
    rw [show 256 ^ (ts.length + 1) = 256 * 256 ^ ts.length from pow_succ' _ _, Nat.mul_assoc]
    omega

/-- The carry out and the bytes of a carry pass. -/
theorem carryPass_eq (c : Nat) (ts : List Nat) :
    (carryPass c ts).2 = (c + valOf ts) / 256 ^ ts.length
      ∧ lenum (carryPass c ts).1 = (c + valOf ts) % 256 ^ ts.length := by
  have h := carryPass_val c ts
  have h2 := lenum_lt (carryPass c ts).1
  rw [carryPass_length] at h2
  rw [← h]
  constructor
  · rw [Nat.add_mul_div_left _ _ (by positivity), Nat.div_eq_of_lt h2, zero_add]
  · rw [Nat.add_mul_mod_self_left, Nat.mod_eq_of_lt h2]

/-- A bound on the carry that limbs up to `B` cannot pass. -/
theorem carryPass_carry_le {B M : Nat} (hB : (M + B) / 256 ≤ M) {c : Nat} (hc : c ≤ M) {ts : List Nat}
    (h : ∀ t ∈ ts, t ≤ B) : (carryPass c ts).2 ≤ M := by
  induction ts generalizing c with
  | nil => exact hc
  | cons t ts ih =>
    simp only [carryPass]
    apply ih
    · rw [Nat.shiftRight_eq_div_pow]
      have := h t List.mem_cons_self
      exact le_trans (Nat.div_le_div_right (by omega)) hB
    · intro u hu
      exact h u (List.mem_cons_of_mem _ hu)

end Sys2Proof.Machine
end

