-- ==== Sys2Proof/Laws/PerInstr.lean ====
section
/-! SUPPORT. Statements made per constructor of `Instr`: the opcode map gives each command's own `OPC` back to it. -/

namespace Sys2Proof.Laws.OpcodeMap

/-- The row that a command's own `OPC` selects is that command, with the fields it was given (`30_encoding.md` R94), and the
unit is the upper half of `OPC` (R91: 0 to 3). -/
def Statement (i : Instr) : Prop := decodeFields i.opc i.arg i.len = .ok i ∧ i.opc.toNat / 16 ≤ 3

theorem nop (a : BitVec 8) (l : BitVec 16) : Statement (.nop a l) := ⟨rfl, by simp [Instr.opc]⟩
theorem rdsr (a : BitVec 8) (l : BitVec 16) : Statement (.rdsr a l) := ⟨rfl, by simp [Instr.opc]⟩
theorem ctmask (a : BitVec 8) (l : BitVec 16) : Statement (.ctmask a l) := ⟨rfl, by simp [Instr.opc]⟩
theorem ctsel (a : BitVec 8) (l : BitVec 16) : Statement (.ctsel a l) := ⟨rfl, by simp [Instr.opc]⟩
theorem cteq (a : BitVec 8) (l : BitVec 16) : Statement (.cteq a l) := ⟨rfl, by simp [Instr.opc]⟩
theorem wipe (a : BitVec 8) (l : BitVec 16) : Statement (.wipe a l) := ⟨rfl, by simp [Instr.opc]⟩
theorem pinit (a : BitVec 8) (l : BitVec 16) : Statement (.pinit a l) := ⟨rfl, by simp [Instr.opc]⟩
theorem pupd (a : BitVec 8) (l : BitVec 16) : Statement (.pupd a l) := ⟨rfl, by simp [Instr.opc]⟩
theorem pfin (a : BitVec 8) (l : BitVec 16) : Statement (.pfin a l) := ⟨rfl, by simp [Instr.opc]⟩
theorem ginit (a : BitVec 8) (l : BitVec 16) : Statement (.ginit a l) := ⟨rfl, by simp [Instr.opc]⟩
theorem gaad (a : BitVec 8) (l : BitVec 16) : Statement (.gaad a l) := ⟨rfl, by simp [Instr.opc]⟩
theorem gciph (a : BitVec 8) (l : BitVec 16) : Statement (.gciph a l) := ⟨rfl, by simp [Instr.opc]⟩
theorem gfin (a : BitVec 8) (l : BitVec 16) : Statement (.gfin a l) := ⟨rfl, by simp [Instr.opc]⟩
theorem gtag (a : BitVec 8) (l : BitVec 16) : Statement (.gtag a l) := ⟨rfl, by simp [Instr.opc]⟩
theorem gfmul (a : BitVec 8) (l : BitVec 16) : Statement (.gfmul a l) := ⟨rfl, by simp [Instr.opc]⟩

end Sys2Proof.Laws.OpcodeMap
end

