-- ==== Sys2Proof/Laws/Sequencing.lean ====
section
/-! SUPPORT. How the micro-operations of a command stand beside the loops of its meaning: the counts of
`70_reset_and_hazards.md` R352, and that a sequence depends on the length of its payload alone. -/

namespace Sys2Proof.Machine

/-- One absorb: 17 additions, 289 product terms, two carry passes of 16 with the fold between them, one addition. -/
theorem pAbsorbOps_length : pAbsorbOps.length = 17 + 289 + (16 + 1 + 16 + 1) := by
  simp [pAbsorbOps, pAddOps, pMulRawOps, pMinReduceOps, carryOps, List.length_flatMap]

/-- 128 iterations on backend 0 (R352). -/
theorem gMulOps_serial_length : (gMulOps false).length = 128 := by simp [gMulOps]

/-- Four carry-less products of 64 iterations and 127 reduction passes on backend 1 (R352). -/
theorem gMulOps_clmul_length : (gMulOps true).length = 4 * 64 + 127 := by
  simp [gMulOps, List.length_flatMap]

theorem count_blockCallback_pAbsorbOps : pAbsorbOps.count .blockCallback = 0 := by
  simp [pAbsorbOps, pAddOps, pMulRawOps, pMinReduceOps, carryOps, List.count_eq_zero]

theorem count_blockCallback_gBlockOps (b : Bool) : (gBlockOps b).count .blockCallback = 0 := by
  cases b <;> simp [gBlockOps, gMulOps, List.count_eq_zero]

theorem wholeBlocks_length (D : Bytes) : (wholeBlocks D).length = D.length / 16 := by simp [wholeBlocks]

theorem remainderOf_length (D : Bytes) : (remainderOf D).length = D.length - 16 * (D.length / 16) := by
  simp [remainderOf]

theorem count_blockCallback_bufferOps (n m : Nat) : (bufferOps n m).count .blockCallback = 0 := by
  simp [bufferOps, List.count_eq_zero]

/-- The callbacks of steps (b) and (c) are the blocks handed over. -/
theorem count_blockCallback_bwaRestOps {block : List MicroOp} (h : block.count .blockCallback = 0) (buf : Block) (n : Nat)
    (D : Bytes) : (bwaRestOps block n D).count .blockCallback = (bwaRest buf n D).blocks.length := by
  have key : ∀ l : List Block,
      (l.flatMap fun _ => MicroOp.blockCallback :: block).count .blockCallback = l.length := by
    intro l
    induction l with
    | nil => rfl
    | cons x xs ih => simp [h, ih]
  simp [bwaRestOps, bwaRest, key, count_blockCallback_bufferOps]

/-- The callbacks of `BWA` in the sequence are the blocks `bwa` hands over (`41_blockwise.md` R152). -/
theorem count_blockCallback_bwaOps {block : List MicroOp} (h : block.count .blockCallback = 0) (buf : Block) (n : Nat)
    (D : Bytes) : (bwaOps block n D).count .blockCallback = (bwa buf n D).blocks.length := by
  unfold bwaOps bwa
  split
  · dsimp only
    split
    · simp [h, count_blockCallback_bufferOps, count_blockCallback_bwaRestOps h (overwrite buf n (D.take (min (16 - n) D.length))) 0]
    · simp [count_blockCallback_bufferOps, count_blockCallback_bwaRestOps h (overwrite buf n (D.take (min (16 - n) D.length)))]
  · exact count_blockCallback_bwaRestOps h buf n D

theorem bwaRestOps_congr (block : List MicroOp) (n : Nat) {D E : Bytes} (h : D.length = E.length) :
    bwaRestOps block n D = bwaRestOps block n E := by
  simp only [bwaRestOps, remainderOf_length, List.flatMap_def, List.map_const', wholeBlocks_length, h]

/-- The sequence of one run of the streaming buffer depends on the length of the payload alone. -/
theorem bwaOps_congr (block : List MicroOp) (n : Nat) {D E : Bytes} (h : D.length = E.length) :
    bwaOps block n D = bwaOps block n E := by
  unfold bwaOps
  rw [h]
  dsimp only
  rw [bwaRestOps_congr block 0 (D := D.drop _) (E := E.drop (min (16 - n) E.length)) (by simp [h]),
    bwaRestOps_congr block _ (D := D.drop _) (E := E.drop (min (16 - n) E.length)) (by simp [h]), bwaRestOps_congr block n h]

/-- A word performs the operations of the command it decodes to. -/
theorem microOps_command {w : Word} {i : Instr} (h : decode w = .ok i) (s : State) : microOps w s = commandOps i s := by
  simp [microOps, h]

/-- A word that selects no command performs fault entry and nothing else. -/
theorem microOps_illegal {w : Word} {e : DecodeError} (h : decode w = .error e) (s : State) : microOps w s = faultOps := by
  simp [microOps, h]

end Sys2Proof.Machine
end

