-- ==== Sys2Proof/Laws/Step.lean ====
section
/-! SUPPORT. What one step can do. -/

namespace Sys2Proof.Machine

theorem step_halted {s : State} (h : s.fault = true) : step s = .fault (.halted s.fcode s.fcmd) := by
  simp [step, h]

theorem step_idle {s : State} (hf : s.fault = false) (hc : s.cmd = []) : step s = .next s := by
  simp [step, hf, hc]

theorem step_illegal {s : State} {w : Word} {rest : List Word} {e : DecodeError} (hf : s.fault = false)
    (hc : s.cmd = w :: rest) (hd : decode w = .error e) : step s = .next (s.popCmd.takeFault .fOpcode w) := by
  simp [step, hf, hc, hd]

theorem step_exec {s : State} {w : Word} {rest : List Word} {i : Instr} (hf : s.fault = false)
    (hc : s.cmd = w :: rest) (hd : decode w = .ok i) : step s = exec i s := by
  simp [step, hf, hc, hd]

/-- Everything one step can do when it answers a next state. -/
theorem step_cases {s t : State} (h : step s = .next t) :
    s.fault = false ∧
      ((s.cmd = [] ∧ t = s)
      ∨ (∃ w rest e, s.cmd = w :: rest ∧ decode w = .error e ∧ t = s.popCmd.takeFault .fOpcode w)
      ∨ (∃ w rest i, s.cmd = w :: rest ∧ decode w = .ok i ∧ exec i s = .next t)) := by
  cases hf : s.fault with
  | true => rw [step_halted hf] at h; cases h
  | false =>
    refine ⟨rfl, ?_⟩
    cases hc : s.cmd with
    | nil => rw [step_idle hf hc] at h; exact .inl ⟨rfl, (Host.Outcome.next.inj h).symm⟩
    | cons w rest =>
      cases hd : decode w with
      | error e =>
        rw [step_illegal hf hc hd] at h
        exact .inr (.inl ⟨w, rest, e, rfl, hd, (Host.Outcome.next.inj h).symm⟩)
      | ok i =>
        rw [step_exec hf hc hd] at h
        exact .inr (.inr ⟨w, rest, i, rfl, hd, h⟩)

end Sys2Proof.Machine
end

