-- ==== Sys2Proof/Tests/Slice0.lean ====
section
/-! SUPPORT. The model's own tests. Every expected value is the spec's: the vectors of `95_test_vectors.md` (their ids stand
in the names), the tables of `30_encoding.md` and `60_exceptions.md`. The last part holds the witnesses: for each statement
with hypotheses, a concrete state and operands that meet them. -/

namespace Sys2Proof.Tests

open Sys2Proof Sys2Proof.Machine

/-! ### Well-formedness: each check refuses an ill-formed command (`30_encoding.md` R92, R93) -/

theorem test_wf_argUnused : (Instr.nop 1#8 0#16).wf = false ∧ (Instr.ctmask 1#8 8#16).wf = false
    ∧ (Instr.ctsel 255#8 12#16).wf = false ∧ (Instr.cteq 1#8 2#16).wf = false ∧ (Instr.pinit 1#8 32#16).wf = false
    ∧ (Instr.pupd 128#8 0#16).wf = false ∧ (Instr.pfin 1#8 0#16).wf = false ∧ (Instr.ginit 1#8 16#16).wf = false
    ∧ (Instr.gaad 1#8 0#16).wf = false ∧ (Instr.gciph 1#8 0#16).wf = false ∧ (Instr.gfin 1#8 0#16).wf = false := by decide

theorem test_wf_argRange : (Instr.rdsr 3#8 0#16).wf = false ∧ (Instr.wipe 0#8 0#16).wf = false
    ∧ (Instr.wipe 4#8 0#16).wf = false ∧ (Instr.gtag 1#8 32#16).wf = false ∧ (Instr.gtag 17#8 32#16).wf = false
    ∧ (Instr.gfmul 2#8 32#16).wf = false := by decide

theorem test_wf_len : (Instr.nop 0#8 1#16).wf = false ∧ (Instr.rdsr 0#8 4#16).wf = false
    ∧ (Instr.ctmask 0#8 7#16).wf = false ∧ (Instr.ctsel 0#8 13#16).wf = false ∧ (Instr.cteq 0#8 0#16).wf = false
    ∧ (Instr.cteq 0#8 3#16).wf = false ∧ (Instr.wipe 1#8 1#16).wf = false ∧ (Instr.pinit 0#8 31#16).wf = false
    ∧ (Instr.pfin 0#8 1#16).wf = false ∧ (Instr.ginit 0#8 17#16).wf = false ∧ (Instr.gfin 0#8 16#16).wf = false
    ∧ (Instr.gtag 16#8 16#16).wf = false ∧ (Instr.gfmul 0#8 31#16).wf = false := by decide

theorem test_wf_accepts : (Instr.rdsr 2#8 0#16).wf = true ∧ (Instr.wipe 3#8 0#16).wf = true
    ∧ (Instr.gtag 2#8 32#16).wf = true ∧ (Instr.gtag 16#8 32#16).wf = true ∧ (Instr.gfmul 1#8 32#16).wf = true
    ∧ (Instr.cteq 0#8 65534#16).wf = true ∧ (Instr.pupd 0#8 65535#16).wf = true ∧ (Instr.gaad 0#8 0#16).wf = true := by
  decide

/-! ### Decoding: every constructor by a word from the spec -/

/-- The words of `95_test_vectors.md` section 2.1. -/
theorem test_decode_words :
    decode 0x00000000#32 = .ok (.nop 0#8 0#16) ∧ decode 0x01020000#32 = .ok (.rdsr 2#8 0#16)
    ∧ decode 0x10000008#32 = .ok (.ctmask 0#8 8#16) ∧ decode 0x1100000C#32 = .ok (.ctsel 0#8 12#16)
    ∧ decode 0x1200FFFE#32 = .ok (.cteq 0#8 65534#16) ∧ decode 0x13030000#32 = .ok (.wipe 3#8 0#16)
    ∧ decode 0x20000020#32 = .ok (.pinit 0#8 32#16) ∧ decode 0x21000022#32 = .ok (.pupd 0#8 34#16)
    ∧ decode 0x22000000#32 = .ok (.pfin 0#8 0#16) ∧ decode 0x30000010#32 = .ok (.ginit 0#8 16#16)
    ∧ decode 0x31000014#32 = .ok (.gaad 0#8 20#16) ∧ decode 0x3200003C#32 = .ok (.gciph 0#8 60#16)
    ∧ decode 0x33000000#32 = .ok (.gfin 0#8 0#16) ∧ decode 0x340C0020#32 = .ok (.gtag 12#8 32#16)
    ∧ decode 0x35010020#32 = .ok (.gfmul 1#8 32#16) := by decide

/-- One word per family, written bit by bit from the layout `OPC ARG LEN` of `30_encoding.md` R90. -/
theorem test_decode_bits :
    decode 0b00000001_00000001_0000000000000000#32 = .ok (.rdsr 1#8 0#16)
    ∧ decode 0b00010011_00000010_0000000000000000#32 = .ok (.wipe 2#8 0#16)
    ∧ decode 0b00100000_00000000_0000000000100000#32 = .ok (.pinit 0#8 32#16)
    ∧ decode 0b00110001_00000000_0000000000010100#32 = .ok (.gaad 0#8 20#16) := by decide

/-- An illegal field is still that row's command; no row means rejection by name (section 2.1, R98). -/
theorem test_decode_illegal :
    decode 0x22000001#32 = .ok (.pfin 0#8 1#16) ∧ decode 0x20010020#32 = .ok (.pinit 1#8 32#16)
    ∧ decode 0x36000000#32 = .error (.unassignedOpcode 0x36#8) ∧ decode 0xFF000000#32 = .error (.unassignedOpcode 0xFF#8)
    ∧ decode 0x02000000#32 = .error (.unassignedOpcode 0x02#8) := by decide

theorem test_decodeTableWord : decodeTableWord 32 0x35000020 = some (.gfmul 0#8 32#16)
    ∧ decodeTableWord 32 0x36000000 = none ∧ decodeTableWord 32 0x21000000 = some (.pupd 0#8 0#16) := by decide

/-- Assembler lines and pseudo-instructions (`30_encoding.md` R101, R102). -/
theorem test_assembler :
    Asm.word (.rdsr 1#8) = 0x01010000#32 ∧ Asm.word .ctmask = 0x10000008#32 ∧ Asm.word .ctsel = 0x1100000C#32
    ∧ Asm.word (.cteq 32#16) = 0x12000020#32 ∧ Asm.word .pinit = 0x20000020#32 ∧ Asm.word .ginit = 0x30000010#32
    ∧ Asm.word (.gtag 12#8) = 0x340C0020#32 ∧ Asm.word (.gfmul 1#8) = 0x35010020#32
    ∧ Asm.word .sync = 0x00000000#32 ∧ Asm.word .pwipe = 0x13010000#32 ∧ Asm.word .gwipe = 0x13020000#32
    ∧ Asm.word .wipeall = 0x13030000#32 ∧ Asm.word .gtociph = 0x32000000#32 ∧ Asm.word .rdid = 0x01000000#32
    ∧ Asm.word .rdcfg = 0x01010000#32 ∧ Asm.word .rdstat = 0x01020000#32 := by decide

/-! ### One step of each command -/

/-- One host exchange: push the word and the payload, take one step. -/
def sent (s : State) (w : Word) (D : Bytes) : Option State :=
  match step ((s.pushCmd w).pushDin D) with
  | .next t => some t
  | .fault _ => none
  | .refused _ => none

/-- Result bytes and response words after one exchange. -/
def reply (s : State) (w : Word) (D : Bytes) : Option (Bytes × List Word) :=
  match sent s w D with
  | some t => some (t.dout, t.rsp)
  | none => none

/-- A 16-byte block from its bytes. -/
def block (B : Bytes) : Block := blockAt B 0

/-- Reset with the strap at 0. -/
def base : State := State.resetWith false

/-- `H` of test case 2 of GCM, as the spec prints it. -/
def tc2H : Bytes :=
  [0x66#8, 0xe9#8, 0x4b#8, 0xd4#8, 0xef#8, 0x8a#8, 0x2c#8, 0x3b#8, 0x88#8, 0x4c#8, 0xfa#8, 0x59#8, 0xca#8, 0x34#8, 0x2b#8, 0x2e#8]

/-- Ciphertext of test case 2. -/
def tc2C : Bytes :=
  [0x03#8, 0x88#8, 0xda#8, 0xce#8, 0x60#8, 0xb6#8, 0xa3#8, 0x92#8, 0xf3#8, 0x28#8, 0xc2#8, 0xb9#8, 0x71#8, 0xb2#8, 0xfe#8, 0x78#8]

/-- `G.Y` after that ciphertext. -/
def tc2Y : Bytes :=
  [0x5e#8, 0x2e#8, 0xc7#8, 0x46#8, 0x91#8, 0x70#8, 0x62#8, 0x88#8, 0x2c#8, 0x85#8, 0xb0#8, 0x68#8, 0x53#8, 0x53#8, 0xde#8, 0xb7#8]

/-- Vector G-TC2: the GHASH value. -/
def tc2S : Bytes :=
  [0xf3#8, 0x8c#8, 0xbb#8, 0x1a#8, 0xd6#8, 0x92#8, 0x23#8, 0xdc#8, 0xc3#8, 0x45#8, 0x7a#8, 0xe5#8, 0xb6#8, 0xb0#8, 0xf8#8, 0x85#8]

theorem test_nop : reply base 0x00000000#32 [] = some ([], [0x00000000#32]) := by decide

theorem test_nop_f_arg : reply base 0x00010000#32 [] = some ([], [0x00000082#32]) := by decide

/-- "VMC1" comes out as `31 43 4d 56` (`10_state.md` R39). -/
theorem test_rdsr_id : reply base 0x01000000#32 [] = some ([0x31#8, 0x43#8, 0x4d#8, 0x56#8], [0x01000000#32]) := by decide

/-- Program 1 step 3: a live context with five bytes reads `51 00 00 00`. -/
theorem test_rdsr_status : reply { base with p := { PolyCtx.zero with n := 5#5, active := true } } 0x01020000#32 []
    = some ([0x51#8, 0x00#8, 0x00#8, 0x00#8], [0x01000000#32]) := by decide

theorem test_ctmask_m4 : reply base 0x10000008#32 (List.replicate 8 0xff#8)
    = some ([0xff#8, 0xff#8, 0xff#8, 0xff#8], [0x10000000#32]) := by decide

theorem test_ctmask_m5 : reply base 0x10000008#32 [0#8, 0#8, 0#8, 0x80#8, 0#8, 0#8, 0#8, 0#8]
    = some ([0#8, 0#8, 0#8, 0#8], [0x10000000#32]) := by decide

theorem test_ctsel_s3 : reply base 0x1100000C#32
    [0xff#8, 0xff#8, 0#8, 0#8, 0x44#8, 0x33#8, 0x22#8, 0x11#8, 0xdd#8, 0xcc#8, 0xbb#8, 0xaa#8]
    = some ([0x44#8, 0x33#8, 0xbb#8, 0xaa#8], [0x11000000#32]) := by decide

theorem test_ctsel_s4 : reply base 0x1100000C#32
    [0x01#8, 0#8, 0#8, 0x80#8, 0xff#8, 0xff#8, 0xff#8, 0xff#8, 0#8, 0#8, 0#8, 0#8]
    = some ([0x01#8, 0#8, 0#8, 0x80#8], [0x11000000#32]) := by decide

theorem test_cteq_1 : reply base 0x12000004#32 [0xa1#8, 0xb2#8, 0xa1#8, 0xb2#8] = some ([], [0x12000000#32]) := by decide

theorem test_cteq_3 : reply base 0x12000004#32 [0xa1#8, 0xb2#8, 0x21#8, 0xb2#8] = some ([], [0x12000001#32]) := by decide

/-- A Poly1305 context and a GHASH context, both live. -/
def busy : State :=
  { base with
    p := { (PolyCtx.init (List.replicate 32 0xff#8)) with n := 3#5 }
    g := { (GhashCtx.init (block tc2H) false) with n := 8#5, lenAad := 8#64 } }

theorem test_wipe_1 : sent busy 0x13010000#32 [] = some { busy with p := PolyCtx.zero, rsp := [0x13000000#32] } := by decide

theorem test_wipe_2 : sent busy 0x13020000#32 [] = some { busy with g := GhashCtx.zero, rsp := [0x13000000#32] } := by decide

/-- The clamp of vector P-ONES-1. -/
theorem test_pinit_clamp : (sent base 0x20000020#32 (List.replicate 32 0xff#8)).map (fun t => (t.p.r.toList, t.p.s.toList, t.p.active))
    = some ([0xff#8, 0xff#8, 0xff#8, 0x0f#8, 0xfc#8, 0xff#8, 0xff#8, 0x0f#8, 0xfc#8, 0xff#8, 0xff#8, 0x0f#8, 0xfc#8, 0xff#8,
        0xff#8, 0x0f#8, 0#8], List.replicate 16 0xff#8, true) := by decide

theorem test_pinit_f_len : reply base 0x2000001F#32 [] = some ([], [0x20000083#32]) := by decide

/-- Vector P-FULLRED-1: `r = 2`, one block of ones. -/
theorem test_pupd_fullred1 :
    (sent { base with p := PolyCtx.init (0x02#8 :: zeros 31) } 0x21000010#32 (List.replicate 16 0xff#8)).map
      (fun t => (t.p.h.toList, t.p.n)) = some ([0xfe#8] ++ List.replicate 15 0xff#8 ++ [0x03#8], 0#5) := by decide +kernel

/-- A partial payload fills the buffer and absorbs nothing. -/
theorem test_pupd_partial :
    (sent { base with p := PolyCtx.init (0x02#8 :: zeros 31) } 0x21000003#32 [0x61#8, 0x62#8, 0x63#8]).map
      (fun t => (t.p.h, t.p.n, t.p.buf.toList.take 3)) = some (zeroLimbs, 3#5, [0x61#8, 0x62#8, 0x63#8]) := by decide +kernel

/-- Vector P-FULLRED-1: the accumulator `2^130 - 2` gives the tag 3. -/
theorem test_pfin_fullred1 :
    reply { base with p := { (PolyCtx.init (0x02#8 :: zeros 31)) with
      h := limbsOf ([0xfe#8] ++ List.replicate 15 0xff#8 ++ [0x03#8]) } } 0x22000000#32 []
    = some (0x03#8 :: zeros 15, [0x22000000#32]) := by decide +kernel

/-- Vector P-ONES-1: a pending block of one byte. -/
theorem test_pfin_ones1 :
    reply { base with p := { (PolyCtx.init (List.replicate 32 0xff#8)) with buf := block (0xff#8 :: zeros 15), n := 1#5 } }
      0x22000000#32 []
    = some ([0x23#8, 0xfe#8, 0xff#8, 0xef#8, 0x23#8, 0xf8#8, 0xff#8, 0xef#8, 0x23#8, 0xf8#8, 0xff#8, 0xef#8, 0x23#8, 0xf8#8,
        0xff#8, 0xef#8], [0x22000000#32]) := by decide +kernel

/-- G-TC2 with the strap at 1: `SR2` is 0x000A after GINIT. -/
theorem test_ginit_cap1 : (sent (State.resetWith true) 0x30000010#32 tc2H).map (fun t => (statusWord t, t.g.H.toList))
    = some (0x0000000A#32, tc2H) := by decide

/-- `G.phase = AAD` with eight bytes buffered: `SR2` is 0x1002 (vector G-AAD8). -/
theorem test_gaad_partial : (sent { base with g := GhashCtx.init (block tc2H) false } 0x31000008#32 (tc2C.take 8)).map
    (fun t => (statusWord t, t.g.lenAad, t.g.Y)) = some (0x00001002#32, 8#64, zeroBlock) := by decide

/-- Fault F_GSEQ_AAD: associated data after ciphertext (program 3). -/
theorem test_gaad_f_gseq_aad :
    sent { busy with g := { busy.g with phase := .cipher } } 0x31000001#32 [0xa5#8]
    = some { base with fault := true, fcode := 5#8, fcmd := 0x31000001#32, din := [0xa5#8], rsp := [0x31000085#32] } := by decide

/-- Vector G-TC2, step 2. -/
theorem test_gciph_tc2 : (sent { base with g := GhashCtx.init (block tc2H) false } 0x32000010#32 tc2C).map
    (fun t => (statusWord t, t.g.Y.toList, t.g.lenCt)) = some (0x00000004#32, tc2Y, 16#64) := by decide +kernel

/-- The phase moves on an empty payload (GTOCIPH). -/
theorem test_gciph_empty : (sent { base with g := GhashCtx.init (block tc2H) false } 0x32000000#32 []).map
    (fun t => statusWord t) = some 0x00000004#32 := by decide

/-- Vector G-TC2, step 3, on backend 1. -/
theorem test_gfin_tc2 :
    reply { State.resetWith true with
      g := { (GhashCtx.init (block tc2H) true) with Y := block tc2Y, lenCt := 16#64, phase := .cipher } } 0x33000000#32 []
    = some (tc2S, [0x33000000#32]) := by decide +kernel

theorem test_gfin_f_gseq_invalid : reply base 0x33000000#32 [] = some ([], [0x33000086#32]) := by decide

/-- The first two bytes of a 16-byte mask. -/
theorem test_gtag_2 : reply base 0x34020020#32 (List.replicate 16 0xf0#8 ++ List.replicate 16 0x0f#8)
    = some ([0xff#8, 0xff#8], [0x34000000#32]) := by decide

theorem test_gtag_f_taglen : reply base 0x34010021#32 [] = some ([], [0x34000087#32]) := by decide

/-- Vector GF-10 on backend 0. -/
theorem test_gfmul_gf10 : reply base 0x35000020#32 ([0xe1#8] ++ zeros 30 ++ [0x01#8])
    = some ([0x92#8, 0x04#8] ++ zeros 13 ++ [0x01#8], [0x35000000#32]) := by decide +kernel

/-- Vector GF-6 on backend 1. -/
theorem test_gfmul_gf6 : reply base 0x35010020#32 (zeros 15 ++ [0x01#8] ++ zeros 15 ++ [0x01#8])
    = some ([0xe6#8, 0x08#8] ++ zeros 13 ++ [0x03#8], [0x35000000#32]) := by decide +kernel

/-! ### The step around the commands -/

/-- The next state of one step. -/
def stepped (s : State) : Option State :=
  match step s with
  | .next t => some t
  | .fault _ => none
  | .refused _ => none

/-- The named stop of one step. -/
def stopped (s : State) : Option Fault :=
  match step s with
  | .fault r => some r
  | .next _ => none
  | .refused _ => none

/-- No row: F_OPCODE (`60_exceptions.md` R301, R306). -/
theorem test_opcode_fault : stepped (busy.pushCmd 0x36000000#32)
    = some { base with fault := true, fcode := 1#8, fcmd := 0x36000000#32, rsp := [0x36000081#32] } := by decide

/-- After it the core is halted. -/
theorem test_halted : stopped (({ base with fault := true, fcode := 1#8, fcmd := 0x36000000#32 } : State).pushCmd 0#32)
    = some (.halted 1#8 0x36000000#32) := by decide

/-- A short payload holds the command; a faulting one does not wait (`20_memory.md` R72). -/
theorem test_hold : ((base.pushCmd 0x10000008#32).pushDin (zeros 7)).enabled = false
    ∧ ((base.pushCmd 0x10000008#32).pushDin (zeros 8)).enabled = true
    ∧ (base.pushCmd 0x10000009#32).enabled = true ∧ base.enabled = false := by decide

theorem test_withFetchWord : (stepped (base.withFetchWord 32 0x20000020)).map (fun t => (t.p.active, t.rsp, t.din))
    = some (true, [0x20000000#32], []) := by decide

theorem test_host_pops : ({ base with dout := [1#8, 2#8], rsp := [7#32] } : State).popDout
      = some (1#8, { base with dout := [2#8], rsp := [7#32] })
    ∧ ({ base with rsp := [7#32] } : State).popRsp = some (7#32, base) ∧ base.popDout = none ∧ base.popRsp = none := by decide

/-! ### Witnesses: a concrete state and operands that meet the hypotheses of each statement with hypotheses -/

/-- `busy` with a command at the head of CMD and 64 bytes in DIN. -/
def loaded (w : Word) : State := (busy.pushCmd w).pushDin (List.replicate 64 0x11#8)

/-- A core halted by a fault. -/
def haltedCore : State := { base with fault := true, fcode := 1#8, fcmd := 0x36000000#32, cmd := [0#32] }

/-- Whether a core would run `i` to completion: its hypotheses, and the bytes it pushes. -/
def runs (i : Instr) (s : State) : Bool :=
  i.wf && s.ready i && decide (i.len.toNat ≤ s.din.length) && (commandFault i s).isNone

/-- Both ends of each unassigned range of `OPC`, and the assigned neighbours. -/
theorem witness_EveryWordAccountedFor :
    decode 0x01000000#32 = .ok (.rdsr 0#8 0#16)
    ∧ (∀ o ∈ [0x02, 0x0F, 0x14, 0x1F, 0x23, 0x2F, 0x36, 0xFF], decode (BitVec.ofNat 32 (o * 2 ^ 24))
        = .error (.unassignedOpcode (BitVec.ofNat 8 o)))
    ∧ (∀ o ∈ [0x00, 0x01, 0x10, 0x13, 0x20, 0x22, 0x30, 0x35], decode (BitVec.ofNat 32 (o * 2 ^ 24))
        ≠ .error (.unassignedOpcode (BitVec.ofNat 8 o))) := by decide

theorem witness_StepRunsDecoded : (loaded 0x21000022#32).fault = false ∧ (loaded 0x21000022#32).cmd = [0x21000022#32]
    ∧ decode 0x21000022#32 = .ok (.pupd 0#8 34#16) := by decide

theorem witness_OnlyHaltedCoreStops : haltedCore.fault = true ∧ base.fault = false ∧ base.enabled = false := by decide

/-- A held core with a result byte and a response to pop, an enabled one and a halted one. -/
theorem witness_EnabledExactly :
    (loaded 0x21000040#32).enabled = true ∧ (loaded 0x21000041#32).enabled = false ∧ (loaded 0x21000041#32).fault = false
    ∧ (loaded 0x21000041#32).cmd = [0x21000041#32] ∧ haltedCore.enabled = false
    ∧ ({ loaded 0x21000041#32 with dout := [1#8], rsp := [0#32] } : State).enabled = false
    ∧ ({ loaded 0x21000041#32 with dout := [1#8], rsp := [0#32] } : State).popDout.isSome = true
    ∧ ({ loaded 0x21000041#32 with dout := [1#8], rsp := [0#32] } : State).popRsp.isSome = true := by decide

/-- Every command completes in one state, at the ends of its operand ranges; an illegal one and an unready one do not. -/
theorem witness_ChannelTraffic :
    (∀ i ∈ [Instr.nop 0#8 0#16, .rdsr 0#8 0#16, .rdsr 2#8 0#16, .ctmask 0#8 8#16, .ctsel 0#8 12#16, .cteq 0#8 2#16,
        .cteq 0#8 64#16, .wipe 1#8 0#16, .wipe 3#8 0#16, .pinit 0#8 32#16, .pupd 0#8 0#16, .pupd 0#8 64#16, .pfin 0#8 0#16,
        .ginit 0#8 16#16, .gaad 0#8 0#16, .gaad 0#8 64#16, .gciph 0#8 0#16, .gciph 0#8 64#16, .gfin 0#8 0#16,
        .gtag 2#8 32#16, .gtag 16#8 32#16, .gfmul 0#8 32#16, .gfmul 1#8 32#16], runs i (loaded 0#32) = true)
    ∧ (Instr.gtag 1#8 32#16).wf = false ∧ base.ready (.pupd 0#8 0#16) = false
    ∧ wordFault 0x36000000#32 (loaded 0x36000000#32) = some .fOpcode ∧ (loaded 0x36000000#32).fault = false
    ∧ (loaded 0x36000000#32).cmd = [0x36000000#32] := by decide

theorem witness_ResponseWordForm :
    (loaded 0x12000002#32).enabled = true ∧ (stepped (loaded 0x12000002#32)).map (·.fault) = some false
    ∧ (loaded 0x12000003#32).enabled = true ∧ (stepped (loaded 0x12000003#32)).map (·.fault) = some true := by decide

theorem witness_PipelinedPushesCommute :
    (loaded 0x10000008#32).enabled = true ∧ (stepped (loaded 0x10000008#32)).isSome = true := by decide

theorem witness_NopRule : (1#8 ≠ 0#8) ∧ commandFault (.nop 1#8 0#16) busy = some .fArg
    ∧ commandFault (.nop 0#8 1#16) busy = some .fLen ∧ runs (.nop 0#8 0#16) (loaded 0#32) = true := by decide

theorem witness_RdsrRule : commandFault (.rdsr 3#8 0#16) busy = some .fArg
    ∧ commandFault (.rdsr 2#8 1#16) busy = some .fLen
    ∧ (∀ k ∈ [0#8, 1#8, 2#8], runs (.rdsr k 0#16) (loaded 0#32) = true) := by decide

theorem witness_StatusRegisterFields :
    busy.SamePublic { busy with p := { busy.p with h := limbsOf [1#8] } } ∧ statusWord busy ≠ 0#32 := by decide

theorem witness_CtMaskIsEqualityMask : (5#32 = 5#32) ∧ (0x80000000#32 ≠ 0#32) := by decide

theorem witness_CtEqIsEquality : ([1#8, 2#8] : Bytes).length = ([1#8, 3#8] : Bytes).length := by decide

theorem witness_CtmaskRule : commandFault (.ctmask 1#8 8#16) busy = some .fArg
    ∧ commandFault (.ctmask 0#8 7#16) busy = some .fLen ∧ commandFault (.ctmask 0#8 9#16) busy = some .fLen
    ∧ runs (.ctmask 0#8 8#16) (loaded 0#32) = true := by decide

theorem witness_CtselRule : commandFault (.ctsel 1#8 12#16) busy = some .fArg
    ∧ commandFault (.ctsel 0#8 11#16) busy = some .fLen ∧ commandFault (.ctsel 0#8 13#16) busy = some .fLen
    ∧ runs (.ctsel 0#8 12#16) (loaded 0#32) = true := by decide

theorem witness_CteqRule : commandFault (.cteq 1#8 2#16) busy = some .fArg
    ∧ commandFault (.cteq 0#8 0#16) busy = some .fLen ∧ commandFault (.cteq 0#8 65535#16) busy = some .fLen
    ∧ commandFault (.cteq 0#8 65534#16) busy = none ∧ runs (.cteq 0#8 2#16) (loaded 0#32) = true := by decide

theorem witness_WipeRule : commandFault (.wipe 0#8 0#16) busy = some .fArg
    ∧ commandFault (.wipe 4#8 0#16) busy = some .fArg ∧ commandFault (.wipe 3#8 1#16) busy = some .fLen
    ∧ (∀ k ∈ [1#8, 2#8, 3#8], runs (.wipe k 0#16) (loaded 0#32) = true) := by decide

/-- The ends of the count's range. -/
theorem witness_Bwa : (0 : Nat) ≤ 15 ∧ (15 : Nat) ≤ 15 ∧ (bwa zeroBlock 15 [7#8]).blocks.length = 1
    ∧ (bwa zeroBlock 15 [7#8]).n = 0 ∧ (bwa zeroBlock 0 []).n = 0 := by decide

theorem witness_LimbAdditionValue : val zeroLimbs + val negP < 2 ^ 136 ∧ (0 : Nat) < 17 ∧ (16 : Nat) < 17 := by decide

theorem witness_BlockMarkerValue : (1 : Nat) ≤ 1 ∧ (1 : Nat) ≤ 15 ∧ (15 : Nat) ≤ 15 := by decide

/-- Operands at every bound the engine's analysis uses. -/
theorem witness_RawProductCongruent :
    let x := limbsOf (List.replicate 16 0xff#8 ++ [7#8])
    let y := clamp (block (List.replicate 16 0xff#8))
    limb x 16 ≤ 7 ∧ (∀ k ∈ [3, 7, 11, 15], limb y k ≤ 15) ∧ (∀ k ∈ [4, 8, 12], limb y k ≤ 252) ∧ limb y 16 = 0 := by decide

/-- Limbs at the bound, and limbs small enough for the fold bound. -/
theorem witness_MinimalReductionValue :
    (List.replicate 17 (2 ^ 29 - 1)).length = 17 ∧ (∀ u ∈ List.replicate 17 (2 ^ 29 - 1), u < 2 ^ 29)
    ∧ 5 * (valOf (List.replicate 17 0xff) / 2 ^ 128 / 4) < 2 ^ 20
    ∧ (∀ u ∈ List.replicate 17 332993025, u < 2 ^ 29 ∧ u ≤ 332993025) := by decide

theorem witness_AbsorbStep : (PolyCtx.init (List.replicate 32 0xff#8)).Inv
    ∧ val (fullBlock (block (List.replicate 16 0xff#8))) < 2 ^ 129
    ∧ limb (fullBlock (block (List.replicate 16 0xff#8))) 16 ≤ 1 := by decide +kernel

/-- `p - 1`, `p` and `2p - 1`. -/
theorem witness_FullReductionCanonical :
    val (limbsOf ([0xfa#8] ++ List.replicate 15 0xff#8 ++ [3#8])) = pPrime - 1
    ∧ val (limbsOf ([0xfb#8] ++ List.replicate 15 0xff#8 ++ [3#8])) = pPrime
    ∧ val (limbsOf ([0xf5#8] ++ List.replicate 15 0xff#8 ++ [7#8])) = 2 * pPrime - 1 ∧ pPrime - 1 < 2 * pPrime
    ∧ pPrime < 2 * pPrime ∧ 2 * pPrime - 1 < 2 * pPrime := by
  rw [pPrime]
  decide +kernel

theorem witness_PinitRule : commandFault (.pinit 1#8 32#16) busy = some .fArg
    ∧ commandFault (.pinit 0#8 31#16) busy = some .fLen ∧ commandFault (.pinit 0#8 33#16) busy = some .fLen
    ∧ runs (.pinit 0#8 32#16) (loaded 0#32) = true := by decide

theorem witness_PupdRule : commandFault (.pupd 255#8 0#16) busy = some .fArg
    ∧ commandFault (.pupd 0#8 65535#16) base = some .fPseq ∧ commandFault (.pupd 0#8 65535#16) busy = none
    ∧ runs (.pupd 0#8 0#16) (loaded 0#32) = true ∧ runs (.pupd 0#8 64#16) (loaded 0#32) = true := by decide

theorem witness_PfinRule : commandFault (.pfin 1#8 0#16) busy = some .fArg
    ∧ commandFault (.pfin 0#8 1#16) busy = some .fLen ∧ commandFault (.pfin 0#8 0#16) base = some .fPseq
    ∧ runs (.pfin 0#8 0#16) (loaded 0#32) = true := by decide

/-- A live context fed three bytes. -/
theorem witness_Poly1305Authenticator : ∃ s, PolyRun (List.replicate 32 0x11#8) (List.replicate 3 0x11#8) s :=
  ⟨_, .feed (len := 3#16)
    (.start (s := loaded 0#32) (by decide) (exec_run (by decide) (by decide)))
    (by decide +kernel) (exec_run (by decide +kernel) (by decide +kernel))⟩

theorem witness_PadFlush : ({ GhashCtx.zero with n := 15#5 } : GhashCtx).n ≠ 0#5
    ∧ ({ GhashCtx.zero with n := 15#5 } : GhashCtx).n.toNat ≤ 15 ∧ ({ GhashCtx.zero with n := 1#5 } : GhashCtx).n ≠ 0#5
    ∧ GhashCtx.zero.n = 0#5 := by decide

/-- Each phase, and a command that completes and one that faults. -/
theorem witness_PhaseTable : runs (.gciph 0#8 0#16) (loaded 0#32) = true
    ∧ commandFault (.gaad 1#8 0#16) busy = some .fArg ∧ base.g.phase = .invalid
    ∧ ({ busy with g := { busy.g with phase := .cipher } } : State).g.phase = .cipher
    ∧ (stepped (loaded 0x32000000#32)).map (·.g.phase) = some .cipher := by decide +kernel

/-- The phase moves to `CIPHER`, to `INVALID` and, from `INVALID`, to `AAD`. -/
theorem witness_PhaseMonotonic :
    (loaded 0x32000000#32).fault = false ∧ (loaded 0x32000000#32).g.phase = .aad
    ∧ (loaded 0x32000000#32).cmd = encode (.gciph 0#8 0#16) :: []
    ∧ (stepped (loaded 0x32000000#32)).map (·.g.phase) = some .cipher
    ∧ (stepped (loaded 0x13020000#32)).map (·.g.phase) = some .invalid
    ∧ ((base.pushCmd 0x30000010#32).pushDin tc2H).g.phase = .invalid
    ∧ (stepped ((base.pushCmd 0x30000010#32).pushDin tc2H)).map (·.g.phase) = some .aad := by decide +kernel

theorem witness_GinitRule : commandFault (.ginit 1#8 16#16) busy = some .fArg
    ∧ commandFault (.ginit 0#8 15#16) busy = some .fLen ∧ commandFault (.ginit 0#8 17#16) busy = some .fLen
    ∧ runs (.ginit 0#8 16#16) (loaded 0#32) = true := by decide

theorem witness_GaadRule : commandFault (.gaad 1#8 0#16) busy = some .fArg
    ∧ commandFault (.gaad 0#8 65535#16) base = some .fGseqInvalid
    ∧ commandFault (.gaad 0#8 0#16) { busy with g := { busy.g with phase := .cipher } } = some .fGseqAad
    ∧ runs (.gaad 0#8 64#16) (loaded 0#32) = true := by decide

theorem witness_GciphRule : commandFault (.gciph 1#8 0#16) busy = some .fArg
    ∧ commandFault (.gciph 0#8 0#16) base = some .fGseqInvalid ∧ runs (.gciph 0#8 64#16) (loaded 0#32) = true
    ∧ runs (.gciph 0#8 0#16) { loaded 0#32 with g := { busy.g with phase := .cipher } } = true := by decide

theorem witness_GfinRule : commandFault (.gfin 1#8 0#16) busy = some .fArg
    ∧ commandFault (.gfin 0#8 1#16) busy = some .fLen ∧ commandFault (.gfin 0#8 0#16) base = some .fGseqInvalid
    ∧ runs (.gfin 0#8 0#16) (loaded 0#32) = true := by decide

theorem witness_GtagRule : commandFault (.gtag 1#8 32#16) busy = some .fTaglen
    ∧ commandFault (.gtag 17#8 32#16) busy = some .fTaglen ∧ commandFault (.gtag 16#8 31#16) busy = some .fLen
    ∧ runs (.gtag 2#8 32#16) (loaded 0#32) = true ∧ runs (.gtag 16#8 32#16) (loaded 0#32) = true := by decide

theorem witness_GfmulRule : commandFault (.gfmul 2#8 32#16) busy = some .fArg
    ∧ commandFault (.gfmul 1#8 33#16) busy = some .fLen ∧ runs (.gfmul 0#8 32#16) (loaded 0#32) = true
    ∧ runs (.gfmul 1#8 32#16) (loaded 0#32) = true := by decide

/-- A live context fed three bytes of associated data. -/
theorem witness_GhashValue : ∃ s, GhashRun (blockAt (List.replicate 64 0x11#8) 0) (List.replicate 3 0x11#8) [] s :=
  ⟨_, .aad (len := 3#16)
    (.start (s := loaded 0#32) (by decide) (exec_run (by decide) (by decide)))
    (by decide +kernel) (by decide +kernel) (exec_run (by decide +kernel) (by decide +kernel))⟩

/-- All seven causes arise. -/
theorem witness_FaultEntryExact :
    wordFault 0x36000000#32 busy = some .fOpcode ∧ wordFault 0x00010000#32 busy = some .fArg
    ∧ wordFault 0x00000001#32 busy = some .fLen ∧ wordFault 0x21000000#32 base = some .fPseq
    ∧ wordFault 0x31000000#32 { busy with g := { busy.g with phase := .cipher } } = some .fGseqAad
    ∧ wordFault 0x33000000#32 base = some .fGseqInvalid ∧ wordFault 0x34010020#32 busy = some .fTaglen
    ∧ (busy.pushCmd 0x36000000#32).fault = false ∧ (busy.pushCmd 0x36000000#32).cmd = [0x36000000#32] := by decide

theorem witness_FaultPriority : commandFault (.gaad 1#8 0#16) base = some .fArg
    ∧ commandFault (.gtag 1#8 0#16) base = some .fTaglen ∧ commandFault (.pfin 0#8 1#16) base = some .fLen
    ∧ commandFault (.pfin 0#8 0#16) base = some .fPseq ∧ decode 0x36000000#32 = .error (.unassignedOpcode 0x36#8) := by decide

theorem witness_OnlyResetLeavesFaultOrMovesStrap : (stepped (loaded 0#32)).isSome = true
    ∧ ({ haltedCore with dout := [1#8], rsp := [0#32] } : State).popDout.isSome = true
    ∧ ({ haltedCore with dout := [1#8], rsp := [0#32] } : State).popRsp.isSome = true := by decide

theorem witness_ResetThenFirstCommand : (Instr.pupd 0#8 2#16).wf = true ∧ (Instr.cteq 0#8 2#16).wf = true
    ∧ (2 : Nat) ≤ ([1#8, 1#8] : Bytes).length := by decide

/-- A state with both contexts live meets the invariant and steps. -/
theorem witness_StepKeepsInvariant : (loaded 0x21000022#32).Inv ∧ (stepped (loaded 0x21000022#32)).isSome = true := by
  decide +kernel

theorem witness_CommandFrames : commandFault (.pupd 0#8 34#16) (loaded 0x21000022#32) = none
    ∧ (∃ t, exec (.pupd 0#8 34#16) (loaded 0x21000022#32) = .next t)
    ∧ commandFault (.wipe 1#8 0#16) (loaded 0x13010000#32) = none ∧ (1#8 : BitVec 8).getLsbD 1 = false
    ∧ (2#8 : BitVec 8).getLsbD 0 = false :=
  ⟨by decide, ⟨_, exec_run (by decide) (by decide)⟩, by decide, by decide, by decide⟩

theorem witness_EnginesIndependent : commandFault (.pfin 0#8 0#16) (loaded 0x22000000#32) = none
    ∧ (∃ t, exec (.pfin 0#8 0#16) (loaded 0x22000000#32) = .next t)
    ∧ commandFault (.gciph 0#8 64#16) (loaded 0x32000040#32) = none
    ∧ (∃ t, exec (.gciph 0#8 64#16) (loaded 0x32000040#32) = .next t) :=
  ⟨by decide, ⟨_, exec_run (by decide) (by decide)⟩, by decide, ⟨_, exec_run (by decide) (by decide)⟩⟩

theorem witness_BackendUnobservable : (∃ t, exec (.gaad 0#8 64#16) (loaded 0x31000040#32) = .next t)
    ∧ (∀ arg len, Instr.gaad 0#8 64#16 ≠ .rdsr arg len)
    ∧ busy.capClmul = busy.capClmul ∧ (4 : Nat) ≠ 3 :=
  ⟨⟨_, exec_run (by decide) (by decide)⟩, fun _ _ => by simp, rfl, by decide⟩

/-- Two cores that differ in secrets alone, and the same core with another payload. -/
theorem witness_SecretsStayInside :
    (loaded 0x21000010#32).SameButSecrets { loaded 0x21000010#32 with p := { busy.p with h := limbsOf [1#8] } }
    ∧ (loaded 0x21000010#32).SamePublic { loaded 0x21000010#32 with din := List.replicate 64 0x22#8 }
    ∧ (stepped (loaded 0x21000010#32)).isSome = true
    ∧ (stepped { loaded 0x21000010#32 with p := { busy.p with h := limbsOf [1#8] } }).isSome = true := by decide +kernel

/-- A command that completes on both cores, a CTEQ whose outcomes differ, and a word that selects no command. -/
theorem witness_LeakageIsPublic :
    (∃ t, exec (.pupd 0#8 16#16) (loaded 0x21000010#32) = .next t)
    ∧ (∃ t, exec (.pupd 0#8 16#16) { loaded 0x21000010#32 with din := List.replicate 64 0x22#8 } = .next t)
    ∧ (∀ arg len, Instr.pupd 0#8 16#16 ≠ .cteq arg len)
    ∧ (loaded 0x12000002#32).SamePublic { loaded 0x12000002#32 with din := 0x00#8 :: List.replicate 63 0x11#8 }
    ∧ (stepped (loaded 0x12000002#32)).map (·.rsp) = some [0x12000000#32]
    ∧ (stepped { loaded 0x12000002#32 with din := 0x00#8 :: List.replicate 63 0x11#8 }).map (·.rsp) = some [0x12000001#32]
    ∧ (stepped (loaded 0x36000000#32)).isSome = true ∧ opcOf 0x36000000#32 ≠ 0x12#8 :=
  ⟨⟨_, exec_run (by decide) (by decide)⟩, ⟨_, exec_run (by decide) (by decide)⟩, fun _ _ => by simp, by decide, by decide,
    by decide, by decide, by decide⟩

/-- The core each host sequence starts from, the ends of the tag length, nonces of 12 bytes and of another length, and two
tags that differ. -/
theorem witness_host_sequences : (zeros 32).length = 32 ∧ base.fault = false ∧ base.cmd = [] ∧ base.din = []
    ∧ base.dout = [] ∧ base.rsp = [] ∧ 2 ≤ (2#8 : BitVec 8).toNat ∧ (16#8 : BitVec 8).toNat ≤ 16
    ∧ (zeros 12).length = 12 ∧ (zeros 0).length ≠ 12
    ∧ (bytesAt 16 (zeros 16)) ≠ bytesAt 16 (0xff#8 :: zeros 15)
    ∧ (bytesAt (2#8 : BitVec 8).toNat (zeros 2)) ≠ bytesAt (2#8 : BitVec 8).toNat [0#8, 1#8] := by decide

/-- The operation counts of R352: four carry-less products of 64 iterations and 127 reduction passes, between the pops and the
pushes of GFMUL on backend 1. -/
theorem test_microOps_gfmul : (microOps 0x35010020#32 (loaded 0x35010020#32)).length = 2 + (4 * 64 + 127) + 2 := by
  decide +kernel

/-- An unassigned word performs fault entry alone. -/
theorem test_microOps_unassigned : microOps 0x36000000#32 base = [.cmdPop, .recordFault, .wipeP, .wipeG, .rspPush] := by decide

/-- Tags that differ in their last bit are refused (`45_aead_host_sequences.md` R285). -/
theorem test_verifyEqual : (verifyEqual (bytesAt 2 [0xa1#8, 0xb2#8]) (bytesAt 2 [0xa1#8, 0xb3#8]) base).map (·.1) = some false
    ∧ (verifyEqual (bytesAt 2 [0xa1#8, 0xb2#8]) (bytesAt 2 [0xa1#8, 0xb2#8]) base).map (·.1) = some true := by decide

end Sys2Proof.Tests
end

section
/-! PROOFS. The status registers (`10_state.md` R38 to R41): `SR2` bit by bit, and what a status register reads depends on. -/

namespace Sys2Proof.Machine

/-- `SR2` bit by bit, in the ranges of R41's table. From bit 14 on the last branch reads past the five bits of `G_N`, so it is
zero there. -/
theorem statusWord_getLsbD (s : State) (i : Nat) :
    (statusWord s).getLsbD i =
      if i < 1 then s.p.active
      else if i < 3 then s.g.phase.bits.getLsbD (i - 1)
      else if i < 4 then s.g.backend
      else if i < 9 then s.p.n.getLsbD (i - 4)
      else s.g.n.getLsbD (i - 9) := by
  simp only [statusWord, BitVec.getLsbD_or, BitVec.getLsbD_shiftLeft, BitVec.getLsbD_setWidth, BitVec.getLsbD_ofBool]
  grind

section Fields

variable (s : State)

theorem statusWord_pActive : (statusWord s).getLsbD 0 = s.p.active := statusWord_getLsbD s 0

theorem statusWord_gBackend : (statusWord s).getLsbD 3 = s.g.backend := statusWord_getLsbD s 3

theorem statusWord_gPhase : (statusWord s).extractLsb' 1 2 = s.g.phase.bits := by
  apply BitVec.eq_of_getLsbD_eq
  intro i hi
  simp [statusWord_getLsbD, hi, show 1 + i < 3 by omega]

theorem statusWord_pCount : (statusWord s).extractLsb' 4 5 = s.p.n := by
  apply BitVec.eq_of_getLsbD_eq
  intro i hi
  simp [statusWord_getLsbD, hi, show ¬ 4 + i < 3 by omega, show 4 + i < 9 by omega]

theorem statusWord_gCount : (statusWord s).extractLsb' 9 5 = s.g.n := by
  apply BitVec.eq_of_getLsbD_eq
  intro i hi
  simp [statusWord_getLsbD, hi, show ¬ 9 + i < 3 by omega, show ¬ 9 + i < 4 by omega]

theorem statusWord_reserved : (statusWord s).extractLsb' 14 18 = 0#18 := by
  apply BitVec.eq_of_getLsbD_eq
  intro i hi
  have habove : s.g.n.getLsbD (14 + i - 9) = false := BitVec.getLsbD_of_ge _ _ (by omega)
  simp [statusWord_getLsbD, hi, habove, show ¬ 14 + i < 3 by omega, show ¬ 14 + i < 4 by omega,
    show ¬ 14 + i < 9 by omega]

end Fields

theorem statusWord_resetWith (cap : Bool) : statusWord (State.resetWith cap) = 0#32 := by
  simp [statusWord, State.resetWith, PolyCtx.zero, GhashCtx.zero, Phase.bits]

/-- A status register reads public state alone: `SR0` nothing, `SR1` the strap, `SR2` the five fields of R41. -/
theorem statusReg_congr {s t : State} (h : s.SamePublic t) (k : BitVec 8) : statusReg k s = statusReg k t := by
  obtain ⟨⟨hpn, hactive, hgn, -, -, hphase, hbackend, hcap, -⟩, -⟩ := h
  have hcfg : cfgWord s = cfgWord t := by rw [cfgWord, cfgWord, hcap]
  have hstatus : statusWord s = statusWord t := by
    rw [statusWord, statusWord, hpn, hactive, hgn, hphase, hbackend]
  rw [statusReg, statusReg, hcfg, hstatus]

/-- Settles O13: each field is the range of bits R41 gives it, and a status register reads public state alone. -/
theorem statusRegisterFields : Obligations.StatusRegisterFields := by
  refine ⟨fun s => ⟨statusWord_pActive s, ?_, statusWord_gBackend s, statusWord_pCount s, statusWord_gCount s,
    statusWord_reserved s⟩, statusWord_resetWith, fun _ _ => statusReg_congr, fun _ => rfl⟩
  rw [statusWord_gPhase]
  cases s.g.phase <;> rfl

end Sys2Proof.Machine
end

section
/-! PROOFS. The decoder read backwards: a word and the command it selects hold the same three fields (`30_encoding.md` R90,
R94). -/

namespace Sys2Proof

/-- A decoded command holds the three fields of its word. -/
theorem fields_of_decode {w : Word} {i : Instr} (h : decode w = .ok i) :
    i.opc = opcOf w ∧ i.arg = argOf w ∧ i.len = lenOf w := by
  unfold decode decodeFields at h
  split at h
  case h_16 => cases h
  all_goals
    cases h
    exact ⟨Eq.symm ‹_›, rfl, rfl⟩

theorem len_of_decode {w : Word} {i : Instr} (h : decode w = .ok i) : i.len = lenOf w := by
  obtain ⟨-, -, hlen⟩ := fields_of_decode h
  exact hlen

/-- A word is the encoding of the command it selects. -/
theorem encode_of_decode {w : Word} {i : Instr} (h : decode w = .ok i) : encode i = w := by
  obtain ⟨hopc, harg, hlen⟩ := fields_of_decode h
  rw [encode, hopc, harg, hlen, encodeFields_of_word]

end Sys2Proof
end

section
/-! PROOFS. When a step is enabled and what it does (`20_memory.md` R72): a word that faults is taken at once, a word that
does not fault waits for its payload. -/

namespace Sys2Proof.Machine

section OneStep

variable {s : State} {w : Word} {rest : List Word}

theorem wordFault_illegal {e : DecodeError} (h : decode w = .error e) (s : State) :
    wordFault w s = some .fOpcode := by
  simp [wordFault, h]

theorem wordFault_command {i : Instr} (h : decode w = .ok i) (s : State) : wordFault w s = commandFault i s := by
  simp [wordFault, h]

/-- The fault a word raises depends on the two contexts alone: no channel lifts or causes one. -/
theorem wordFault_congr (w : Word) {s t : State} (hp : t.p = s.p) (hg : t.g = s.g) :
    wordFault w t = wordFault w s := by
  cases hd : decode w with
  | error e => rw [wordFault_illegal hd, wordFault_illegal hd]
  | ok i =>
    rw [wordFault_command hd, wordFault_command hd]
    exact commandFault_congr i (congrArg _ hp) (congrArg _ hg)

theorem enabled_of_fault (h : s.fault = true) : s.enabled = false := by
  simp [State.enabled, h]

theorem enabled_of_cmd_nil (h : s.cmd = []) : s.enabled = false := by
  simp [State.enabled, h]

/-- R72 for a core with the word `w` at the head of CMD. -/
theorem enabled_cons_iff (hc : s.cmd = w :: rest) :
    s.enabled = true ↔ s.fault = false ∧ (wordFault w s ≠ none ∨ (lenOf w).toNat ≤ s.din.length) := by
  cases hf : s.fault with
  | true => simp [enabled_of_fault hf]
  | false => simp [State.enabled, hf, hc, Option.isSome_iff_ne_none]

/-- R72 for any core. -/
theorem enabled_iff (s : State) :
    s.enabled = true ↔ s.fault = false ∧ ∃ w rest, s.cmd = w :: rest
      ∧ (wordFault w s ≠ none ∨ (lenOf w).toNat ≤ s.din.length) := by
  cases hc : s.cmd with
  | nil => simp [enabled_of_cmd_nil hc]
  | cons w rest =>
    rw [enabled_cons_iff hc]
    simp only [List.cons.injEq]
    exact ⟨fun ⟨hf, h⟩ => ⟨hf, w, rest, ⟨rfl, rfl⟩, h⟩, fun ⟨hf, _, _, ⟨hw, _⟩, h⟩ => ⟨hf, hw ▸ h⟩⟩

/-- A held core: no fault to take, and a payload that is not there yet. -/
theorem held_iff (hf : s.fault = false) (hc : s.cmd = w :: rest) :
    s.enabled = false ↔ wordFault w s = none ∧ s.din.length < (lenOf w).toNat := by
  rw [← Bool.not_eq_true, enabled_cons_iff hc]
  simp [hf]

/-- A word that faults is answered by fault entry, whatever DIN holds. -/
theorem step_fault {c : FaultCause} (hf : s.fault = false) (hc : s.cmd = w :: rest) (h : wordFault w s = some c) :
    step s = .next (s.popCmd.takeFault c w) := by
  cases hd : decode w with
  | error e =>
    rw [wordFault_illegal hd] at h
    cases h
    exact step_illegal hf hc hd
  | ok i =>
    rw [wordFault_command hd] at h
    rw [step_exec hf hc hd, exec_fault h, encode_of_decode hd]

/-- A word that does not fault and whose payload is there runs its command's rule. -/
theorem step_run (hf : s.fault = false) (hc : s.cmd = w :: rest) (h : wordFault w s = none)
    (hlen : (lenOf w).toNat ≤ s.din.length) :
    ∃ i, decode w = .ok i
      ∧ step s = .next (ruleOf i (s.din.take (lenOf w).toNat) (s.popCmd.dropDin (lenOf w).toNat)) := by
  cases hd : decode w with
  | error e => simp [wordFault_illegal hd] at h
  | ok i =>
    rw [wordFault_command hd] at h
    rw [← len_of_decode hd] at hlen ⊢
    exact ⟨i, rfl, by rw [step_exec hf hc hd, exec_run h hlen]⟩

/-- An enabled step pops one word and pushes one response. -/
theorem step_enabled (h : s.enabled = true) :
    ∃ t v, step s = .next t ∧ t.cmd = s.cmd.tail ∧ t.rsp = s.rsp ++ [v] := by
  obtain ⟨hf, w, rest, hc, hrun⟩ := (enabled_iff s).mp h
  cases hw : wordFault w s with
  | some c => exact ⟨_, _, step_fault hf hc hw, rfl, rfl⟩
  | none =>
    obtain ⟨i, -, hstep⟩ := step_run hf hc hw (hrun.resolve_left (not_not_intro hw))
    obtain ⟨code, hrsp, -⟩ := ruleOf_rsp i (s.din.take (lenOf w).toNat) (s.popCmd.dropDin (lenOf w).toNat)
    obtain ⟨hcmd, -⟩ := ruleOf_frame i (s.din.take (lenOf w).toNat) (s.popCmd.dropDin (lenOf w).toNat)
    exact ⟨_, _, hstep, hcmd, hrsp⟩

/-- A held or idle core does not move. -/
theorem step_not_enabled (hf : s.fault = false) (h : s.enabled = false) : step s = .next s := by
  cases hc : s.cmd with
  | nil => exact step_idle hf hc
  | cons w rest =>
    obtain ⟨hw, hlen⟩ := (held_iff hf hc).mp h
    cases hd : decode w with
    | error e => simp [wordFault_illegal hd] at hw
    | ok i =>
      rw [wordFault_command hd] at hw
      rw [step_exec hf hc hd, exec_hold hw (by rwa [len_of_decode hd])]

/-- A hold outlasts every host access that leaves the word, the contexts and DIN as they are. -/
theorem held_congr {t : State} {rest' : List Word} (hf : s.fault = false) (hc : s.cmd = w :: rest)
    (h : s.enabled = false) (hf' : t.fault = s.fault) (hc' : t.cmd = w :: rest') (hp : t.p = s.p) (hg : t.g = s.g)
    (hdin : t.din = s.din) : t.enabled = false := by
  rw [held_iff (hf'.trans hf) hc', wordFault_congr w hp hg, hdin]
  exact (held_iff hf hc).mp h

/-- Pushed bytes lift a hold exactly when `LEN` bytes are there. -/
theorem held_pushDin_enabled_iff (hf : s.fault = false) (hc : s.cmd = w :: rest) (h : s.enabled = false) (B : Bytes) :
    (s.pushDin B).enabled = true ↔ (lenOf w).toNat ≤ s.din.length + B.length := by
  obtain ⟨hw, -⟩ := (held_iff hf hc).mp h
  have hw' : wordFault w (s.pushDin B) = none := (wordFault_congr w rfl rfl).trans hw
  rw [enabled_cons_iff (s := s.pushDin B) hc]
  simp [hf, hw']

theorem State.popDout_eq {b : Byte} {t : State} (h : s.popDout = some (b, t)) : t = { s with dout := t.dout } := by
  unfold State.popDout at h
  split at h <;> cases h
  rfl

theorem State.popRsp_eq {v : Word} {t : State} (h : s.popRsp = some (v, t)) : t = { s with rsp := t.rsp } := by
  unfold State.popRsp at h
  split at h <;> cases h
  rfl

end OneStep

/-- Settles O7: the two forms of a step, enabled and not, and what each host access does to a hold. -/
theorem enabledExactly : Obligations.EnabledExactly := by
  refine fun s => ⟨enabled_iff s, fun h => ?_, fun h t hstep => ?_, fun w rest B hf hc h => ?_,
    fun hf _ _ => ⟨enabled_of_fault hf, enabled_of_fault hf⟩⟩
  · obtain ⟨t, v, hstep, hcmd, hrsp⟩ := step_enabled h
    exact ⟨t, hstep, hcmd, by simp [hrsp]⟩
  · obtain ⟨hf, -⟩ := step_cases hstep
    rw [step_not_enabled hf h] at hstep
    exact (Host.Outcome.next.inj hstep).symm
  · refine ⟨held_pushDin_enabled_iff hf hc h B, fun v => ?_, fun b t hpop => ?_, fun v t hpop => ?_⟩
    · exact held_congr (rest' := rest ++ [v]) hf hc h rfl (by simp [hc]) rfl rfl rfl
    · rw [State.popDout_eq hpop]
      exact held_congr hf hc h rfl hc rfl rfl rfl
    · rw [State.popRsp_eq hpop]
      exact held_congr hf hc h rfl hc rfl rfl rfl

end Sys2Proof.Machine
end

section
/-! PROOFS. The units each command moves on the four channels (`20_memory.md` R62). -/

namespace Sys2Proof.Machine

@[simp] theorem le32_length (v : Word) : (le32 v).length = 4 := by simp [le32]

/-- Each of the three status registers is one word (`44_system.md` R262). -/
theorem statusBytes_length {k : BitVec 8} (hk : k.toNat ≤ 2) (s : State) : (statusBytes k s).length = 4 := by
  have hnumber : k.toNat = 0 ∨ k.toNat = 1 ∨ k.toNat = 2 := by omega
  rcases hnumber with h | h | h <;> simp [statusBytes, statusReg, h]

theorem PolyCtx.tag_length (p : PolyCtx) : p.tag.length = 16 := by simp [PolyCtx.tag]

theorem GhashCtx.value_length (g : GhashCtx) : g.value.length = 16 := by simp [GhashCtx.value]

/-- The DOUT column of R62: how many bytes each command pushes. -/
def resultLength : Instr → Nat
  | .rdsr _ _ => 4
  | .ctmask _ _ => 4
  | .ctsel _ _ => 4
  | .pfin _ _ => 16
  | .gfin _ _ => 16
  | .gtag arg _ => arg.toNat
  | .gfmul _ _ => 16
  | _ => 0

/-- A command whose `ARG` is legal pushes the bytes of its row: RDSR needs a register's number and GTAG a length a block
holds. -/
theorem outOf_length {i : Instr} (h : i.argLegal = true) (D : Bytes) (t : State) :
    (outOf i D t).length = resultLength i := by
  cases i with
  | rdsr arg len => exact statusBytes_length (of_decide_eq_true h) t
  | gtag arg len =>
    obtain ⟨-, harg⟩ := of_decide_eq_true h
    simp [outOf, resultLength, harg]
  | pfin arg len => exact t.p.tag_length
  | gfin arg len => exact t.g.value_length
  | _ => simp [outOf, resultLength]

/-- Fault entry moves one word and one response and no byte (`60_exceptions.md` R305, R306). -/
theorem takeFault_traffic (s : State) (c : FaultCause) (w : Word) :
    (s.popCmd.takeFault c w).cmd = s.cmd.tail ∧ (s.popCmd.takeFault c w).din = s.din
      ∧ (s.popCmd.takeFault c w).dout = s.dout ∧ ∃ v, (s.popCmd.takeFault c w).rsp = s.rsp ++ [v] :=
  ⟨rfl, rfl, rfl, _, rfl⟩

/-- Settles O8: a completed command drops its `LEN` bytes and pushes the bytes of its row; fault entry moves no byte. -/
theorem channelTraffic : Obligations.ChannelTraffic := by
  refine fun i s => ⟨fun hwf hready hdin => ?_, fun t hbad hex => ?_, fun w rest c hf hc hw => ?_⟩
  · have hnone := (commandFault_none_iff i s).mpr ⟨hwf, hready⟩
    obtain ⟨harg, hlen⟩ := Bool.and_eq_true_iff.mp hwf
    have hout := outOf_length harg (s.din.take i.len.toNat) (s.popCmd.dropDin i.len.toNat)
    refine ⟨_, _, _, exec_effects hnone hdin, rfl, rfl, rfl, ?_⟩
    cases i with
    | cteq | pupd | gaad | gciph => exact ⟨rfl, hout⟩
    | _ =>
      have hdrop := congrArg (List.drop · s.din) (of_decide_eq_true hlen)
      exact ⟨hdrop, hout⟩
  · rcases exec_cases hex with ⟨c, -, rfl⟩ | ⟨hnone, -⟩ | ⟨hnone, -⟩
    · exact takeFault_traffic s c (encode i)
    all_goals
      obtain ⟨hwf, hready⟩ := (commandFault_none_iff i s).mp hnone
      simp [hwf, hready] at hbad
  · obtain ⟨hcmd, hdin, hdout, v, hrsp⟩ := takeFault_traffic s c w
    exact ⟨_, v, step_fault hf hc hw, by rw [hcmd, hc, List.tail_cons], hdin, hdout, hrsp⟩

end Sys2Proof.Machine
end

section
/-! PROOFS. The response to one command (`30_encoding.md` R96, R97): the fields of a response word, and which code an enabled
step answers. -/

namespace Sys2Proof.Machine

/-- A response word bit by bit: `CODE` in 7:0, zero in 23:8, `OPC` in 31:24 (R96). -/
theorem response_getLsbD (opc code : BitVec 8) (i : Nat) :
    (response opc code).getLsbD i =
      if i < 8 then code.getLsbD i else if i < 24 then false else opc.getLsbD (i - 24) := by
  simp only [response, BitVec.getLsbD_or, BitVec.getLsbD_shiftLeft, BitVec.getLsbD_setWidth]
  grind

section Fields

variable (opc code : BitVec 8)

theorem response_reserved : (response opc code).extractLsb' 8 16 = 0#16 := by
  apply BitVec.eq_of_getLsbD_eq
  intro i hi
  simp [response_getLsbD, show 8 + i < 24 by omega]

/-- The low bits of a response word are those of its code. -/
theorem response_extractLsb'_low {n : Nat} (hn : n ≤ 8) : (response opc code).extractLsb' 0 n = code.setWidth n := by
  apply BitVec.eq_of_getLsbD_eq
  intro i hi
  simp [response_getLsbD, hi, show i < 8 by omega]

theorem response_code : (response opc code).extractLsb' 0 8 = code := by
  rw [response_extractLsb'_low opc code le_rfl, BitVec.setWidth_eq]

theorem response_faultBit : (response opc code).getLsbD 7 = code.getLsbD 7 := response_getLsbD opc code 7

end Fields

theorem FaultCause.code_range (c : FaultCause) : 1 ≤ c.code.toNat ∧ c.code.toNat ≤ 7 := by
  cases c <;> decide

/-- A fault's code is bit 7 over the cause (R97). -/
theorem codeFault_faultBit (c : FaultCause) : (codeFault c).getLsbD 7 = true := by
  cases c <;> rfl

theorem codeFault_cause (c : FaultCause) : (codeFault c).setWidth 7 = c.code.setWidth 7 := by
  cases c <;> rfl

/-- What an enabled step answers: a fault's code with its cause recorded, or a completion code with no fault, `AUTH_FAIL`
for CTEQ alone (R97). -/
theorem step_response {s t : State} {w : Word} {rest : List Word} (hc : s.cmd = w :: rest) (he : s.enabled = true)
    (hstep : step s = .next t) :
    ∃ code, t.rsp = s.rsp ++ [response (opcOf w) code]
      ∧ ((t.fault = true ∧ ∃ c, code = codeFault c ∧ t.fcode = c.code)
        ∨ (t.fault = false ∧ (code = codeOk ∨ (code = codeAuthFail ∧ opcOf w = 0x12#8)))) := by
  obtain ⟨hf, hrun⟩ := (enabled_cons_iff hc).mp he
  cases hw : wordFault w s with
  | some c =>
    rw [step_fault hf hc hw] at hstep
    cases hstep
    exact ⟨codeFault c, rfl, .inl ⟨rfl, c, rfl, rfl⟩⟩
  | none =>
    obtain ⟨i, hd, hrule⟩ := step_run hf hc hw (hrun.resolve_left (not_not_intro hw))
    rw [hrule] at hstep
    cases hstep
    obtain ⟨hopc, -, -⟩ := fields_of_decode hd
    obtain ⟨code, hrsp, hcode⟩ := ruleOf_rsp i (s.din.take (lenOf w).toNat) (s.popCmd.dropDin (lenOf w).toNat)
    obtain ⟨-, -, -, hfault, -, -⟩ := ruleOf_frame i (s.din.take (lenOf w).toNat) (s.popCmd.dropDin (lenOf w).toNat)
    rw [hopc] at hrsp hcode
    exact ⟨code, hrsp, .inr ⟨hfault.trans hf, hcode⟩⟩

/-- Settles O9: the response an enabled step pushes, read field by field. -/
theorem responseWordForm : Obligations.ResponseWordForm := by
  intro s t w rest hc he hstep
  obtain ⟨code, hrsp, hcode⟩ := step_response hc he hstep
  refine ⟨_, hrsp, opcOf_response _ _, response_reserved _ _, ?_⟩
  rw [response_faultBit, response_code, response_extractLsb'_low _ _ (by decide)]
  rcases hcode with ⟨hfault, c, rfl, hfcode⟩ | ⟨hfault, hcode⟩
  · simp [hfault, hfcode, codeFault_faultBit, codeFault_cause, c.code_range]
  · rcases hcode with rfl | ⟨rfl, hopc⟩
    · simp [hfault, codeOk]
    · simp [hfault, codeAuthFail, hopc]

end Sys2Proof.Machine
end

section
/-! PROOFS. The constant-time primitives as functions on words and strings (`40_ct_primitives.md` R121 to R124). -/

namespace Sys2Proof.Machine

/-- The idea of R122's circuit: `~d & (d - 1)` has its top bit only for `d = 0`, since a `d` below `2^31` leaves it out of
`d - 1` and any other `d` leaves it out of `~d`. -/
theorem not_and_pred_lt {d : Word} (h : d ≠ 0#32) : (~~~d &&& (d - 1#32)).toNat < 2 ^ 31 := by
  have hpos : d.toNat ≠ 0 := fun hz => h (BitVec.eq_of_toNat_eq hz)
  rw [BitVec.toNat_and]
  rcases Nat.lt_or_ge d.toNat (2 ^ 31) with hd | hd
  · exact lt_of_le_of_lt Nat.and_le_right (by bv_omega)
  · exact lt_of_le_of_lt Nat.and_le_left (by bv_omega)

@[simp] theorem ctMask32_self (x : Word) : ctMask32 x x = 0xFFFFFFFF#32 := by
  simp [ctMask32]

theorem ctMask32_of_ne {x y : Word} (h : x ≠ y) : ctMask32 x y = 0x00000000#32 := by
  have hz := not_and_pred_lt (mt BitVec.xor_eq_zero_iff.mp h)
  have hshift : (~~~(x ^^^ y) &&& ((x ^^^ y) - 1#32)) >>> 31 = 0#32 := by
    apply BitVec.eq_of_toNat_eq
    rw [BitVec.toNat_ushiftRight, Nat.shiftRight_eq_div_pow, Nat.div_eq_of_lt hz]
    rfl
  simp only [ctMask32, hshift, BitVec.sub_zero]

/-- Settles O14: one case for equal words and one for unequal ones. -/
theorem ctMaskIsEqualityMask : Obligations.CtMaskIsEqualityMask :=
  fun x _ => ⟨fun h => h ▸ ctMask32_self x, ctMask32_of_ne, rfl⟩

theorem ctSel32_getLsbD (m a b : Word) {k : Nat} (hk : k < 32) :
    (ctSel32 m a b).getLsbD k = if m.getLsbD k then a.getLsbD k else b.getLsbD k := by
  simp only [ctSel32, BitVec.getLsbD_or, BitVec.getLsbD_and, BitVec.getLsbD_not, hk]
  cases m.getLsbD k <;> simp

/-- A selection of words is the same selection of each of their bytes. -/
theorem ctSel32_extractLsb' (m a b : Word) {k : Nat} (hk : k < 4) :
    (ctSel32 m a b).extractLsb' (8 * k) 8 =
      (a.extractLsb' (8 * k) 8 &&& m.extractLsb' (8 * k) 8)
        ||| (b.extractLsb' (8 * k) 8 &&& ~~~m.extractLsb' (8 * k) 8) := by
  apply BitVec.eq_of_getLsbD_eq
  intro j hj
  simp [ctSel32, hj, show 8 * k + j < 32 by omega]

theorem ctSel32_allOnes (a b : Word) : ctSel32 (BitVec.allOnes 32) a b = a := by
  rw [ctSel32, BitVec.and_allOnes, BitVec.not_allOnes, BitVec.and_zero, BitVec.or_zero]

theorem ctSel32_zero (a b : Word) : ctSel32 0#32 a b = b := by
  rw [ctSel32, BitVec.and_zero, BitVec.not_zero, BitVec.and_allOnes, BitVec.zero_or]

/-- Settles O15: bit by bit, and the two extreme masks. -/
theorem ctSelectPicksBits : Obligations.CtSelectPicksBits :=
  fun m a b => ⟨fun _ => ctSel32_getLsbD m a b, ctSel32_allOnes a b, ctSel32_zero a b⟩

/-- The scan is a fold over the indices, whatever difference it starts from. -/
theorem ctDiff_eq_foldl {a b : Bytes} (h : a.length = b.length) (d : Byte) :
    ctDiff d a b = (List.range a.length).foldl (fun d i => d ||| (a.getD i 0#8 ^^^ b.getD i 0#8)) d := by
  induction a generalizing b d with
  | nil => rfl
  | cons x xs ih =>
    cases b with
    | nil => cases h
    | cons y ys =>
      rw [ctDiff, ih (Nat.succ.inj h), List.length_cons, List.range_succ_eq_map, List.foldl_cons, List.foldl_map]
      rfl

/-- The difference never drops a bit, so it ends at zero only if it starts there and no pair of bytes differs. -/
theorem ctDiff_eq_zero_iff {a b : Bytes} (h : a.length = b.length) (d : Byte) :
    ctDiff d a b = 0#8 ↔ d = 0#8 ∧ a = b := by
  induction a generalizing b d with
  | nil =>
    cases b with
    | nil => simp [ctDiff]
    | cons y ys => cases h
  | cons x xs ih =>
    cases b with
    | nil => cases h
    | cons y ys =>
      rw [ctDiff, ih (Nat.succ.inj h), BitVec.or_eq_zero_iff, BitVec.xor_eq_zero_iff, List.cons.injEq, and_assoc]

theorem ctEq_iff {a b : Bytes} (h : a.length = b.length) : ctEq a b = true ↔ a = b := by
  rw [ctEq, beq_iff_eq, ctDiff_eq_zero_iff h, and_iff_right rfl]

/-- Settles O16, by induction on the two strings. -/
theorem ctEqIsEquality : Obligations.CtEqIsEquality :=
  fun _ _ h => ⟨ctEq_iff h, ctDiff_eq_foldl h 0#8⟩

end Sys2Proof.Machine
end

section
/-! PROOFS. The bytes of a payload's 32-bit operands (`00_scope.md` R11, R12; `30_encoding.md` R100). -/

namespace Sys2Proof.Machine

/-- A slice of the popped bytes is that slice of DIN. -/
theorem slice_take (D : Bytes) {i n m : Nat} (h : i + n ≤ m) : slice (D.take m) i n = slice D i n := by
  rw [slice, slice, List.drop_take, List.take_take, min_eq_left (by omega)]

theorem slice_length {D : Bytes} {i n : Nat} (h : i + n ≤ D.length) : (slice D i n).length = n := by
  rw [slice, List.length_take, List.length_drop]
  omega

theorem slice_getD (D : Bytes) (i : Nat) {n k : Nat} (hk : k < n) :
    (slice D i n).getD k 0#8 = D.getD (i + k) 0#8 := by
  simp [slice, List.getD_eq_getElem?_getD, hk]

/-- Byte `k` of the number a string stands for; past its end both are zero (`00_scope.md` R12). -/
theorem lenum_byte (B : Bytes) (k : Nat) : lenum B / 256 ^ k % 256 = (B.getD k 0#8).toNat := by
  induction B generalizing k with
  | nil => simp [lenum]
  | cons b bs ih =>
    have hb := b.isLt
    cases k with
    | zero => simp [lenum]; omega
    | succ k =>
      rw [List.getD_cons_succ, ← ih k, pow_succ', ← Nat.div_div_eq_div_mul, lenum]
      congr 2
      omega

/-- Byte `k` of an operand is byte `k` of its four payload bytes. -/
theorem wordAt_extractLsb' (D : Bytes) (i : Nat) {k : Nat} (hk : k < 4) :
    (wordAt D i).extractLsb' (8 * k) 8 = D.getD (i + k) 0#8 := by
  apply BitVec.eq_of_toNat_eq
  have hlt : lenum (slice D i 4) < 2 ^ 32 :=
    lt_of_lt_of_le (lenum_lt _) (Nat.pow_le_pow_right (n := 256) (by decide) (List.length_take_le _ _))
  rw [← slice_getD D i hk, ← lenum_byte, wordAt, BitVec.extractLsb'_toNat, BitVec.toNat_ofNat, Nat.mod_eq_of_lt hlt,
    Nat.shiftRight_eq_div_pow, pow_mul]
  rfl

/-- Writing an operand out again gives its four payload bytes. -/
theorem le32_wordAt {D : Bytes} {i : Nat} (h : i + 4 ≤ D.length) : le32 (wordAt D i) = slice D i 4 := by
  apply List.ext_getElem
  · rw [le32_length, slice_length h]
  · intro k hk hk'
    rw [le32_length] at hk
    have hbyte := (wordAt_extractLsb' D i hk).trans (slice_getD D i hk).symm
    simpa [le32, List.getD_eq_getElem?_getD, hk'] using hbyte

/-- Two operands are the same word exactly when their bytes are the same. -/
theorem wordAt_eq_iff {D : Bytes} {i j : Nat} (hi : i + 4 ≤ D.length) (hj : j + 4 ≤ D.length) :
    wordAt D i = wordAt D j ↔ slice D i 4 = slice D j 4 := by
  constructor
  · intro h
    rw [← le32_wordAt hi, ← le32_wordAt hj, h]
  · intro h
    rw [wordAt, wordAt, h]

theorem wordAt_take (D : Bytes) {i m : Nat} (h : i + 4 ≤ m) : wordAt (D.take m) i = wordAt D i := by
  rw [wordAt, wordAt, slice_take D h]

end Sys2Proof.Machine
end

section
/-! PROOFS. The two ways a command ends when its payload is there (`30_encoding.md` R95): a legality test that fails raises
its fault, and a command that passes completes with its effects. -/

namespace Sys2Proof.Machine

theorem argUnused_iff {arg : BitVec 8} : argUnused arg = true ↔ arg = 0#8 := beq_iff_eq

theorem lenIs_iff {n : Nat} {len : BitVec 16} (hn : n < 2 ^ 16) : lenIs n len = true ↔ len = BitVec.ofNat 16 n := by
  rw [lenIs, beq_iff_eq, ← BitVec.toNat_inj, BitVec.toNat_ofNat, Nat.mod_eq_of_lt hn]

theorem argIn_iff {lo hi : Nat} {arg : BitVec 8} :
    argIn lo hi arg = true ↔ lo ≤ arg.toNat ∧ arg.toNat ≤ hi := by
  rw [argIn, Bool.and_eq_true, decide_eq_true_iff, decide_eq_true_iff]

theorem lenPairs_iff {len : BitVec 16} :
    lenPairs len = true ↔ len.toNat % 2 = 0 ∧ 2 ≤ len.toNat := by
  rw [lenPairs, Bool.and_eq_true, beq_iff_eq, decide_eq_true_iff]

section FieldChecks

/-! A command that checks `ARG`, then `LEN`, and needs no context in any state (`60_exceptions.md` R303, R304). -/

variable {i : Instr} {s : State} {argOk lenOk : Bool}

theorem raises_fArg (hc : commandFault i s = firstFault [(argOk, .fArg), (lenOk, .fLen)]) (ha : ¬ argOk = true) :
    Raises i s .fArg :=
  exec_fault (by simp [hc, ha])

theorem raises_fLen (hc : commandFault i s = firstFault [(argOk, .fArg), (lenOk, .fLen)]) (ha : argOk = true)
    (hl : ¬ lenOk = true) : Raises i s .fLen :=
  exec_fault (by simp [hc, ha, hl])

theorem commandFault_none_of_legal (hc : commandFault i s = firstFault [(argOk, .fArg), (lenOk, .fLen)])
    (ha : argOk = true) (hl : lenOk = true) : commandFault i s = none := by
  simp [hc, ha, hl]

end FieldChecks

/-- The next state of a completed command from its effects, each given in the form a statement writes it. -/
theorem exec_completes {i : Instr} {s : State} {p : PolyCtx} {g : GhashCtx} {out : Bytes} {code : BitVec 8} {w : Word}
    (hc : commandFault i s = none) (hd : i.len.toNat ≤ s.din.length)
    (hp : polyAfter i (s.din.take i.len.toNat) s.p = p) (hg : ghashAfter i (s.din.take i.len.toNat) s.capClmul s.g = g)
    (hout : s.dout ++ outOf i (s.din.take i.len.toNat) (s.popCmd.dropDin i.len.toNat) = out)
    (hcode : codeOf i (s.din.take i.len.toNat) = code) (hw : response i.opc code = w) :
    exec i s = .next
      { s with
        p := p
        g := g
        cmd := s.cmd.tail
        din := s.din.drop i.len.toNat
        dout := out
        rsp := s.rsp ++ [w] } := by
  rw [exec_effects hc hd, hp, hg, hout, hcode, hw]

end Sys2Proof.Machine
end

section
/-! PROOFS. The commands CTMASK, CTSEL, CTEQ and WIPE (`40_ct_primitives.md` R126 to R135): the bytes or the code each
answers, then its faults and its whole next state. -/

namespace Sys2Proof.Machine

/-- The bytes CTMASK pushes (R126): all ones or all zeros by the equality of the two operands' bytes. -/
theorem le32_ctMask32_wordAt {D : Bytes} {i j : Nat} (hi : i + 4 ≤ D.length) (hj : j + 4 ≤ D.length) :
    le32 (ctMask32 (wordAt D i) (wordAt D j)) =
      List.replicate 4 (if slice D i 4 = slice D j 4 then 0xFF#8 else 0x00#8) := by
  by_cases h : slice D i 4 = slice D j 4
  · rw [if_pos h, (wordAt_eq_iff hi hj).mpr h, ctMask32_self]
    rfl
  · rw [if_neg h, ctMask32_of_ne (mt (wordAt_eq_iff hi hj).mp h)]
    rfl

/-- The bytes CTSEL pushes (R128): each mixes two payload bytes by a third. -/
theorem le32_ctSel32_wordAt (D : Bytes) (m a b : Nat) :
    le32 (ctSel32 (wordAt D m) (wordAt D a) (wordAt D b)) = (List.range 4).map fun k =>
      (D.getD (a + k) 0#8 &&& D.getD (m + k) 0#8) ||| (D.getD (b + k) 0#8 &&& ~~~(D.getD (m + k) 0#8)) := by
  apply List.map_congr_left
  intro k hk
  have hk4 := List.mem_range.mp hk
  rw [ctSel32_extractLsb' _ _ _ hk4, wordAt_extractLsb' D m hk4, wordAt_extractLsb' D a hk4, wordAt_extractLsb' D b hk4]

/-- The code CTEQ answers (R130): `OK` or `AUTH_FAIL` by the equality of the payload's two halves. -/
theorem codeOf_cteq (arg : BitVec 8) {len : BitVec 16} {D : Bytes} (h : len.toNat ≤ D.length) :
    codeOf (.cteq arg len) (D.take len.toNat) =
      if slice D 0 (len.toNat / 2) = slice D (len.toNat / 2) (len.toNat / 2) then codeOk else codeAuthFail := by
  have hhalf : len.toNat / 2 + len.toNat / 2 ≤ len.toNat := by omega
  have hlength : (slice D 0 (len.toNat / 2)).length = (slice D (len.toNat / 2) (len.toNat / 2)).length := by
    rw [slice_length (by omega), slice_length (by omega)]
  rw [codeOf, halfLen, slice_take D (by omega), slice_take D hhalf]
  simp only [ctEq_iff hlength]

/-- Settles O17: the two checks in order, then the whole next state by the mask of the operands in DIN. -/
theorem ctmaskRule : Obligations.CtmaskRule := by
  refine ⟨rfl, fun arg len s => ⟨fun ha => ?_, fun ha hl => ?_, ?_⟩⟩
  · exact raises_fArg rfl (mt argUnused_iff.mp ha)
  · exact raises_fLen rfl (argUnused_iff.mpr ha) (mt (lenIs_iff (by decide)).mp hl)
  · rintro rfl rfl hdin
    have hout : outOf (.ctmask 0#8 8#16) (s.din.take 8) (s.popCmd.dropDin 8) =
        List.replicate 4 (if slice s.din 0 4 = slice s.din 4 4 then 0xFF#8 else 0x00#8) := by
      rw [outOf, wordAt_take s.din (by decide), wordAt_take s.din (by decide),
        le32_ctMask32_wordAt (by omega) (by omega)]
    exact exec_completes (code := codeOk) rfl hdin rfl rfl (congrArg (s.dout ++ ·) hout) rfl rfl

/-- Settles O18: the two checks in order, then the whole next state by the bytewise mix of the operands in DIN. -/
theorem ctselRule : Obligations.CtselRule := by
  refine ⟨rfl, fun arg len s => ⟨fun ha => ?_, fun ha hl => ?_, ?_⟩⟩
  · exact raises_fArg rfl (mt argUnused_iff.mp ha)
  · exact raises_fLen rfl (argUnused_iff.mpr ha) (mt (lenIs_iff (by decide)).mp hl)
  · rintro rfl rfl hdin
    have hout : outOf (.ctsel 0#8 12#16) (s.din.take 12) (s.popCmd.dropDin 12) = (List.range 4).map fun k =>
        (s.din.getD (4 + k) 0#8 &&& s.din.getD k 0#8) ||| (s.din.getD (8 + k) 0#8 &&& ~~~(s.din.getD k 0#8)) := by
      rw [outOf, wordAt_take s.din (by decide), wordAt_take s.din (by decide), wordAt_take s.din (by decide),
        le32_ctSel32_wordAt]
      simp only [Nat.zero_add]
    exact exec_completes (code := codeOk) rfl hdin rfl rfl (congrArg (s.dout ++ ·) hout) rfl rfl

/-- Settles O19: the two checks in order, then the response by the comparison of the two halves. -/
theorem cteqRule : Obligations.CteqRule := by
  refine fun arg len s => ⟨fun ha => ?_, fun ha hl => ?_, fun ha heven hpos hdin => ⟨?_, ?_⟩⟩
  · exact raises_fArg rfl (mt argUnused_iff.mp ha)
  · refine raises_fLen rfl (argUnused_iff.mpr ha) (mt lenPairs_iff.mp ?_)
    rcases hl with hodd | rfl
    · omega
    · decide
  · simp [ha, encode, encodeFields, Instr.opc]
  · have hnonzero : len.toNat ≠ 0 := fun hz => hpos (BitVec.eq_of_toNat_eq hz)
    have hnone : commandFault (.cteq arg len) s = none :=
      commandFault_none_of_legal rfl (argUnused_iff.mpr ha) (lenPairs_iff.mpr ⟨heven, by omega⟩)
    exact exec_completes hnone hdin rfl rfl (List.append_nil _) (codeOf_cteq arg hdin) (apply_ite (response 0x12#8) _ _ _)

/-- A legal `ARG` of WIPE spares `P` only as 2 and `G` only as 1 (R135). -/
theorem contexts_after_wipe {arg : BitVec 8} (hpos : arg ≠ 0#8) (hle : arg.toNat ≤ 3) (len : BitVec 16) (D : Bytes)
    (cap : Bool) (p : PolyCtx) (g : GhashCtx) :
    polyAfter (.wipe arg len) D p = (if arg = 2#8 then p else PolyCtx.zero)
      ∧ ghashAfter (.wipe arg len) D cap g = (if arg = 1#8 then g else GhashCtx.zero) := by
  have hcases : arg = 1#8 ∨ arg = 2#8 ∨ arg = 3#8 := by bv_omega
  rcases hcases with rfl | rfl | rfl <;> exact ⟨rfl, rfl⟩

/-- Settles O20: the two checks in order, then the whole next state by the contexts the two bits of `ARG` select. -/
theorem wipeRule : Obligations.WipeRule := by
  intro arg len s
  have hlegal (hpos : arg ≠ 0#8) (hle : arg.toNat ≤ 3) : argIn 1 3 arg = true := argIn_iff.mpr ⟨by bv_omega, hle⟩
  refine ⟨fun ha => ?_, fun hpos hle hl => ?_, fun hpos hle hl => ⟨?_, ?_⟩, fun _ => ⟨rfl, rfl⟩⟩
  · refine raises_fArg rfl (mt argIn_iff.mp ?_)
    rcases ha with rfl | hgt
    · decide
    · omega
  · exact raises_fLen rfl (hlegal hpos hle) (mt (lenIs_iff (by decide)).mp hl)
  · subst hl
    simp [encode, encodeFields, Instr.opc]
  · subst hl
    have hnone : commandFault (.wipe arg 0#16) s = none := commandFault_none_of_legal rfl (hlegal hpos hle) rfl
    obtain ⟨hp, hg⟩ := contexts_after_wipe hpos hle 0#16 (s.din.take 0) s.capClmul s.p s.g
    exact exec_completes (code := codeOk) hnone (Nat.zero_le _) hp hg (List.append_nil _) rfl
      (show response 0x13#8 codeOk = 0x13000000#32 from rfl)

end Sys2Proof.Machine
end

section
/-! PROOFS. What the streaming buffer makes of its input (`41_blockwise.md` R152 to R158): the blocks and the tail of the
buffered bytes followed by the payload, whatever the payload's length and however the input is split. -/

namespace Sys2Proof.Machine

/-- What `r` should be for the byte string `S`: the whole blocks of `S` handed over, the rest of `S` buffered (R156). -/
structure BwaResult.Streams (r : BwaResult) (S : Bytes) : Prop where
  blocks_eq : r.blocks = wholeBlocks S
  n_eq : r.n = (remainderOf S).length
  tail_eq : r.buf.toList.take r.n = remainderOf S

/-- Two runs that stream the same string show the same blocks, count and tail. -/
theorem BwaResult.Streams.agree {r q : BwaResult} {S : Bytes} (hr : r.Streams S) (hq : q.Streams S) :
    r.blocks = q.blocks ∧ r.n = q.n ∧ r.buf.toList.take r.n = q.buf.toList.take q.n :=
  ⟨hr.blocks_eq.trans hq.blocks_eq.symm, hr.n_eq.trans hq.n_eq.symm, hr.tail_eq.trans hq.tail_eq.symm⟩

theorem remainderOf_length_eq_mod (S : Bytes) : (remainderOf S).length = S.length % 16 := by
  rw [remainderOf_length]
  omega

theorem BwaResult.Streams.n_le {r : BwaResult} {S : Bytes} (h : r.Streams S) : r.n ≤ 15 := by
  rw [h.n_eq, remainderOf_length_eq_mod]
  omega

theorem wholeBlocks_of_short {S : Bytes} (h : S.length < 16) : wholeBlocks S = [] := by
  rw [wholeBlocks, Nat.div_eq_of_lt h]
  rfl

theorem remainderOf_of_short {S : Bytes} (h : S.length < 16) : remainderOf S = S := by
  rw [remainderOf, Nat.div_eq_of_lt h]
  rfl

/-! ### A block at the front of a string -/

theorem blockAt_toList_append (B : Block) (D : Bytes) : blockAt (B.toList ++ D) 0 = B := by
  apply Vector.ext
  intro j hj
  simp [blockAt, List.getD_eq_getElem?_getD, List.getElem?_append_left]

theorem blockAt_append_right (B : Block) (D : Bytes) (i : Nat) : blockAt (B.toList ++ D) (16 + i) = blockAt D i := by
  apply Vector.ext
  intro j hj
  simp [blockAt, List.getD_eq_getElem?_getD, List.getElem?_append_right, Nat.add_assoc]

theorem blockAt_toList {S : Bytes} {i : Nat} (h : i + 16 ≤ S.length) : (blockAt S i).toList = slice S i 16 := by
  apply List.ext_getElem
  · rw [slice_length h, Vector.length_toList]
  · intro j hj hj'
    rw [Vector.length_toList] at hj
    simp [blockAt, slice, List.getElem?_eq_getElem (show i + j < S.length by omega)]

theorem wholeBlocks_toList_append (B : Block) (D : Bytes) : wholeBlocks (B.toList ++ D) = B :: wholeBlocks D := by
  have hcount : (B.toList ++ D).length / 16 = D.length / 16 + 1 := by
    rw [List.length_append, Vector.length_toList]
    omega
  have hshift : ∀ k, blockAt (B.toList ++ D) (16 * (k + 1)) = blockAt D (16 * k) := fun k => by
    rw [Nat.mul_succ, Nat.add_comm, blockAt_append_right]
  rw [wholeBlocks, hcount, List.range_succ_eq_map, List.map_cons, List.map_map, Nat.mul_zero, blockAt_toList_append]
  exact congrArg (B :: ·) (List.map_congr_left fun k _ => hshift k)

theorem remainderOf_toList_append (B : Block) (D : Bytes) : remainderOf (B.toList ++ D) = remainderOf D := by
  have hcount : 16 * ((B.toList ++ D).length / 16) = B.toList.length + 16 * (D.length / 16) := by
    rw [List.length_append, Vector.length_toList]
    omega
  rw [remainderOf, hcount, List.drop_length_add_append, remainderOf]

/-! ### Any number of blocks at the front of a string -/

theorem wholeBlocks_flatMap_append (Bs : List Block) (D : Bytes) :
    wholeBlocks (Bs.flatMap Vector.toList ++ D) = Bs ++ wholeBlocks D := by
  induction Bs with
  | nil => rfl
  | cons B Bs ih => rw [List.flatMap_cons, List.append_assoc, wholeBlocks_toList_append, ih, List.cons_append]

theorem remainderOf_flatMap_append (Bs : List Block) (D : Bytes) :
    remainderOf (Bs.flatMap Vector.toList ++ D) = remainderOf D := by
  induction Bs with
  | nil => rfl
  | cons B Bs ih => rw [List.flatMap_cons, List.append_assoc, remainderOf_toList_append, ih]

/-- A string is its whole blocks and then its remainder. -/
theorem flatMap_wholeBlocks_append_remainderOf (S : Bytes) :
    (wholeBlocks S).flatMap Vector.toList ++ remainderOf S = S := by
  rcases Nat.lt_or_ge S.length 16 with hshort | hlong
  · rw [wholeBlocks_of_short hshort, remainderOf_of_short hshort, List.flatMap_nil, List.nil_append]
  · have hfront : (blockAt S 0).toList ++ S.drop 16 = S := by
      rw [blockAt_toList (by omega), slice, List.drop_zero, List.take_append_drop]
    have ih := flatMap_wholeBlocks_append_remainderOf (S.drop 16)
    rw [← hfront, wholeBlocks_toList_append, remainderOf_toList_append, List.flatMap_cons, List.append_assoc, ih]
termination_by S.length
decreasing_by rw [List.length_drop]; omega

/-- More input after `S` makes the blocks of `S`, then those of what `S` left over and the new input. -/
theorem wholeBlocks_append (S E : Bytes) : wholeBlocks (S ++ E) = wholeBlocks S ++ wholeBlocks (remainderOf S ++ E) := by
  conv_lhs => rw [← flatMap_wholeBlocks_append_remainderOf S, List.append_assoc, wholeBlocks_flatMap_append]

theorem remainderOf_append (S E : Bytes) : remainderOf (S ++ E) = remainderOf (remainderOf S ++ E) := by
  conv_lhs => rw [← flatMap_wholeBlocks_append_remainderOf S, List.append_assoc, remainderOf_flatMap_append]

/-! ### One run and many -/

theorem buffered_length (buf : Block) {n : Nat} (hn : n ≤ 16) : (buf.toList.take n).length = n := by
  rw [List.length_take, Vector.length_toList]
  omega

/-- Writing `xs` behind the first `n` buffered bytes appends it to them. -/
theorem overwrite_toList_take (buf : Block) {n : Nat} {xs : Bytes} (h : n + xs.length ≤ 16) :
    (overwrite buf n xs).toList.take (n + xs.length) = buf.toList.take n ++ xs := by
  have hlen := buffered_length buf (n := n) (by omega)
  apply List.ext_getElem
  · rw [List.length_append, hlen, buffered_length _ h]
  · intro j hj _
    have hlt : j < n + xs.length := (List.length_take_le _ _).trans_lt' hj
    rcases Nat.lt_or_ge j n with hbelow | habove
    · rw [List.getElem_append_left (hlen.symm ▸ hbelow)]
      simp [overwrite, Nat.not_le.mpr hbelow]
    · rw [List.getElem_append_right (hlen.symm ▸ habove)]
      simp [overwrite, habove, hlt, hlen, List.getElem?_eq_getElem (show j - n < xs.length by omega)]

theorem overwrite_nil (buf : Block) (n : Nat) : overwrite buf n [] = buf := by
  apply Vector.ext
  intro j hj
  simp only [overwrite, List.length_nil, Vector.getElem_ofFn]
  exact if_neg (by omega)

/-- A buffer that no payload has reached streams the bytes it holds. -/
theorem buffered_streams (buf : Block) {n : Nat} (hn : n ≤ 15) :
    BwaResult.Streams { blocks := [], buf := buf, n := n } (buf.toList.take n) := by
  have hlen := buffered_length buf (n := n) (by omega)
  have hrem : remainderOf (buf.toList.take n) = buf.toList.take n := remainderOf_of_short (by omega)
  exact ⟨(wholeBlocks_of_short (by omega)).symm, by rw [hrem, hlen], hrem.symm⟩

/-- Steps (b) and (c) from an empty buffer. -/
theorem bwaRest_zero_streams (buf : Block) (D : Bytes) : (bwaRest buf 0 D).Streams D where
  blocks_eq := rfl
  n_eq := Nat.zero_add _
  tail_eq := overwrite_toList_take buf (by rw [remainderOf_length_eq_mod]; omega)

/-- Steps (b) and (c) do nothing when no payload is left (R155). -/
theorem bwaRest_nil (buf : Block) (n : Nat) : bwaRest buf n [] = { blocks := [], buf := buf, n := n } :=
  congrArg (BwaResult.mk [] · n) (overwrite_nil buf n)

/-- An empty payload changes nothing (R153). -/
theorem bwa_nil (buf : Block) (n : Nat) : bwa buf n [] = { blocks := [], buf := buf, n := n } := by
  rw [bwa, if_neg (by simp), bwaRest_nil]

/-- A top-up that fills the buffer hands it over, and the rest of the payload meets an empty buffer (R154). -/
theorem bwa_of_fills (buf : Block) {n : Nat} {D : Bytes} (hpos : 0 < n) (hn : n ≤ 15) (h : 16 ≤ n + D.length) :
    bwa buf n D =
      { bwaRest (overwrite buf n (D.take (16 - n))) 0 (D.drop (16 - n)) with
        blocks := overwrite buf n (D.take (16 - n)) :: wholeBlocks (D.drop (16 - n)) } := by
  have ht : min (16 - n) D.length = 16 - n := min_eq_left (by omega)
  rw [bwa, if_pos ⟨hpos, by omega⟩]
  simp only [ht, if_pos (show n + (16 - n) = 16 by omega)]
  rfl

/-- A payload that does not fill the buffer goes into it whole. -/
theorem bwa_of_fits (buf : Block) {n : Nat} {D : Bytes} (hpos : 0 < n) (hD : 0 < D.length) (h : n + D.length ≤ 15) :
    bwa buf n D = { blocks := [], buf := overwrite buf n D, n := n + D.length } := by
  have ht : min (16 - n) D.length = D.length := min_eq_right (by omega)
  rw [bwa, if_pos ⟨hpos, hD⟩]
  simp only [ht, if_neg (show n + D.length ≠ 16 by omega), List.take_length, List.drop_length, bwaRest_nil]

/-- One run streams the buffered bytes followed by the payload (R156). -/
theorem bwa_streams (buf : Block) {n : Nat} (D : Bytes) (hn : n ≤ 15) :
    (bwa buf n D).Streams (buf.toList.take n ++ D) := by
  rcases Nat.eq_zero_or_pos n with rfl | hpos
  · exact bwaRest_zero_streams buf D
  rcases Nat.eq_zero_or_pos D.length with hnil | hD
  · rw [List.length_eq_zero_iff.mp hnil, bwa_nil, List.append_nil]
    exact buffered_streams buf hn
  rcases Nat.lt_or_ge (n + D.length) 16 with hfits | hfills
  · have hbuf := overwrite_toList_take buf hfits.le
    rw [bwa_of_fits buf hpos hD (by omega), ← hbuf]
    exact buffered_streams _ (by omega)
  · have htop : (D.take (16 - n)).length = 16 - n := by rw [List.length_take]; omega
    have hbuf := overwrite_toList_take buf (n := n) (xs := D.take (16 - n)) (by omega)
    rw [htop, List.take_of_length_le (by rw [Vector.length_toList]; omega)] at hbuf
    rw [bwa_of_fills buf hpos hn hfills]
    generalize overwrite buf n (D.take (16 - n)) = full at hbuf ⊢
    have hS : buf.toList.take n ++ D = full.toList ++ D.drop (16 - n) := by
      rw [hbuf, List.append_assoc, List.take_append_drop]
    have hrest := bwaRest_zero_streams full (D.drop (16 - n))
    rw [hS]
    constructor
    · exact (wholeBlocks_toList_append _ _).symm
    · rw [remainderOf_toList_append, hrest.n_eq]
    · rw [remainderOf_toList_append, hrest.tail_eq]

/-- Settles O21: the pieces, the count and the tail of the string that one run streams. -/
theorem bwaPostconditions : Obligations.BwaPostconditions := by
  intro buf n D hn S r
  have h : r.Streams S := bwa_streams buf D hn
  have hcount : r.n = S.length % 16 := h.n_eq.trans (remainderOf_length_eq_mod S)
  refine ⟨?_, hcount, h.n_le, ?_⟩
  · rw [h.blocks_eq, wholeBlocks, List.map_map]
    refine List.map_congr_left fun k hk => blockAt_toList ?_
    have hlt := List.mem_range.mp hk
    omega
  · rw [h.tail_eq, remainderOf, hcount]
    congr 1
    omega

/-- A run over each payload in turn streams all of them: each run's tail is in front of the next payload. -/
theorem bwaMany_streams (buf : Block) {n : Nat} (Ds : List Bytes) (hn : n ≤ 15) :
    (bwaMany buf n Ds).Streams (buf.toList.take n ++ Ds.flatten) := by
  induction Ds generalizing buf n with
  | nil =>
    rw [List.flatten_nil, List.append_nil]
    exact buffered_streams buf hn
  | cons D Ds ih =>
    have hfirst := bwa_streams buf D hn
    have hlater := ih (bwa buf n D).buf hfirst.n_le
    rw [hfirst.tail_eq] at hlater
    rw [List.flatten_cons, ← List.append_assoc]
    constructor
    · rw [wholeBlocks_append, ← hfirst.blocks_eq, ← hlater.blocks_eq]
      rfl
    · rw [remainderOf_append, ← hlater.n_eq]
      rfl
    · rw [remainderOf_append, ← hlater.tail_eq]
      rfl

/-- Settles O22: the split run and the run over the concatenation stream the same string. -/
theorem bwaConcatenationInvariance : Obligations.BwaConcatenationInvariance :=
  fun buf _ Ds hn => (bwaMany_streams buf Ds hn).agree (bwa_streams buf Ds.flatten hn)

end Sys2Proof.Machine
end

section
/-! PROOFS. Limb arrays as numbers (`42_poly1305.md` R171): the number of a byte string of up to seventeen bytes, a limb of
a number, and a number as a sum over its limbs. -/

namespace Sys2Proof.Machine

theorem val_lt (x : Limbs) : val x < 2 ^ 136 := by
  have h := lenum_lt x.toList
  rwa [Vector.length_toList, show 256 ^ 17 = 2 ^ 136 by norm_num] at h

theorem limb_eq_val_div (x : Limbs) (k : Nat) : limb x k = val x / 256 ^ k % 256 := (lenum_byte x.toList k).symm

theorem limb_sixteen (x : Limbs) : limb x 16 = val x / 2 ^ 128 := by
  have h := val_lt x
  rw [limb_eq_val_div, show 256 ^ 16 = 2 ^ 128 by norm_num]
  omega

theorem limb_of_fin (x : Limbs) (i : Fin 17) : limb x i = x[i].toNat := by
  simp [limb, List.getD_eq_getElem?_getD]

theorem limb_limbsOf (B : Bytes) {k : Nat} (hk : k < 17) : limb (limbsOf B) k = (B.getD k 0#8).toNat :=
  (limb_of_fin (limbsOf B) ⟨k, hk⟩).trans (by simp [limbsOf])

theorem lenum_zeros (n : Nat) : lenum (zeros n) = 0 := by
  induction n with
  | zero => rfl
  | succ n ih => simpa [zeros, List.replicate_succ, lenum] using ih

/-- Limbs past the end of a byte string are zero, so the number is the string's. -/
theorem val_limbsOf_of_le {B : Bytes} (h : B.length ≤ 17) : val (limbsOf B) = lenum B := by
  have hpad : limbsOf B = limbsOf (B ++ zeros (17 - B.length)) := by
    apply Vector.ext
    intro j hj
    rcases Nat.lt_or_ge j B.length with hlt | hge
    · simp [limbsOf, List.getD_eq_getElem?_getD, List.getElem?_append_left hlt, hlt]
    · simp [limbsOf, zeros, List.getD_eq_getElem?_getD, List.getElem?_append_right, hge,
        show j - B.length < 17 - B.length by omega]
  rw [hpad, val_limbsOf (by simp [zeros]; omega), lenum_append, lenum_zeros, Nat.mul_zero, Nat.add_zero]

theorem valOf_map_range (f : Nat → Nat) (n : Nat) :
    valOf ((List.range n).map f) = ∑ i ∈ Finset.range n, f i * 256 ^ i := by
  induction n with
  | zero => rfl
  | succ n ih =>
    rw [List.range_succ, List.map_append, valOf_append, ih, Finset.sum_range_succ]
    simp [valOf, Nat.mul_comm]

theorem val_eq_sum (x : Limbs) : val x = ∑ i ∈ Finset.range 17, limb x i * 256 ^ i := by
  rw [val_eq_valOf, valOf_map_range]

/-- Byte by byte masking masks the number. -/
theorem lenum_zipWith_and {a b : Bytes} (h : a.length = b.length) :
    lenum (List.zipWith (· &&& ·) a b) = (lenum a &&& lenum b) := by
  induction a generalizing b with
  | nil => simp [lenum]
  | cons x xs ih =>
    cases b with
    | nil => simp at h
    | cons y ys =>
      have hx := x.isLt
      have hy := y.isLt
      have hlow : (x.toNat + 256 * lenum xs &&& y.toNat + 256 * lenum ys) % 2 ^ 8 = (x.toNat &&& y.toNat) := by
        rw [Nat.and_mod_two_pow]
        congr 1 <;> omega
      have hhigh : (x.toNat + 256 * lenum xs &&& y.toNat + 256 * lenum ys) / 2 ^ 8 = (lenum xs &&& lenum ys) := by
        rw [Nat.and_div_two_pow]
        congr 1 <;> omega
      rw [List.zipWith_cons_cons, lenum, lenum, lenum, ih (by simpa using h), BitVec.toNat_and, ← hlow, ← hhigh]
      exact Nat.mod_add_div _ _

end Sys2Proof.Machine
end

section
/-! PROOFS. The clamp of the key and the value of a block (`42_poly1305.md` R172, R174). -/

namespace Sys2Proof.Machine

/-- The sixteen byte masks of the clamp, which are also the largest clamped bytes (R172). -/
def clampMasks : Bytes := (List.range 16).map clampMask

theorem lenum_clampMasks : lenum clampMasks = 0x0FFFFFFC0FFFFFFC0FFFFFFC0FFFFFFF := rfl

theorem clamp_toList (K : Block) : (clamp K).toList = List.zipWith (· &&& ·) K.toList clampMasks ++ [0#8] := by
  apply List.ext_getElem
  · simp [clampMasks]
  · intro i hi _
    rw [Vector.length_toList] at hi
    rcases Nat.lt_or_ge i 16 with hlt | hge
    · simp [clamp, clampMasks, List.getElem_append_left, hlt]
    · obtain rfl : i = 16 := by omega
      simp [clamp, clampMasks]

theorem val_clamp (K : Block) : val (clamp K) = clampNat (lenum K.toList) := by
  rw [val, clamp_toList, lenum_append, lenum_zipWith_and (by simp [clampMasks]), lenum_clampMasks, clampNat]
  simp [lenum]

theorem clampMask_cases (b : Byte) (i : Nat) :
    b &&& clampMask i =
      if i ∈ [3, 7, 11, 15] then b &&& 0x0F#8 else if i ∈ [4, 8, 12] then b &&& 0xFC#8 else b := by
  simp only [clampMask, List.mem_cons, List.not_mem_nil, or_false]
  split_ifs
  · rfl
  · rfl
  · exact BitVec.and_allOnes

/-- Settles O24: limb by limb from the masks, then as the mask of the number, which is below `2^124`. -/
theorem clampValue : Obligations.ClampValue := by
  intro K
  have hlimb (i : Fin 16) : (clamp K)[i.val]'(by omega) = K[i] &&& clampMask i.val := by simp [clamp]
  refine ⟨fun i => (hlimb i).trans (clampMask_cases K[i] i.val), by simp [clamp], val_clamp K, ?_⟩
  rw [val_clamp]
  exact Nat.and_lt_two_pow _ (by norm_num)

/-! ### The marker of a block -/

theorem fullBlock_toList (B : Block) : (fullBlock B).toList = B.toList ++ [1#8] := limbsOf_toList (by simp)

theorem val_fullBlock (B : Block) : val (fullBlock B) = lenum B.toList + 2 ^ 128 := by
  rw [val, fullBlock_toList, lenum_append, Vector.length_toList]
  norm_num [lenum]

theorem val_shortBlock (B : Block) {m : Nat} (hm : m ≤ 16) :
    val (shortBlock B m) = lenum (B.toList.take m) + 2 ^ (8 * m) := by
  have hlen := buffered_length B hm
  rw [shortBlock, val_limbsOf_of_le (by simp), lenum_append, hlen, pow_mul]
  norm_num [lenum]

theorem shortBlock_getElem (B : Block) {m : Nat} (hm : m ≤ 16) (i : Fin 17) :
    (shortBlock B m)[i] = if i.val < m then B.toList.getD i.val 0#8 else if i.val = m then 1#8 else 0#8 := by
  have hlen := buffered_length B hm
  have hget : (shortBlock B m)[i] = (B.toList.take m ++ [1#8]).getD i.val 0#8 := by simp [shortBlock, limbsOf]
  rw [hget, List.getD_eq_getElem?_getD, List.getD_eq_getElem?_getD]
  split_ifs with hbelow hat
  · rw [List.getElem?_append_left (by omega), List.getElem?_take_of_lt hbelow]
  · rw [List.getElem?_append_right (by omega), hlen, hat, Nat.sub_self]
    rfl
  · rw [List.getElem?_eq_none (by simp; omega)]
    rfl

/-- Settles O26: the bytes and the marker limb by limb, and the number each block stands for. -/
theorem blockMarkerValue : Obligations.BlockMarkerValue := fun B =>
  ⟨fun i => by simp [fullBlock, limbsOf, List.getD_eq_getElem?_getD],
    by simp [fullBlock, limbsOf, List.getD_eq_getElem?_getD],
    val_fullBlock B,
    fun _ _ hm => ⟨shortBlock_getElem B (by omega), val_shortBlock B (by omega)⟩⟩

end Sys2Proof.Machine
end

section
/-! PROOFS. The unreduced product (`42_poly1305.md` R175, R176): each limb as a sum of terms, its value modulo `p`, and how
large the limbs and the value can be. -/

namespace Sys2Proof.Machine

/-- The term of `x[j]` in limb `i`; one that wrapped past limb 16 carries the factor 320 (R176). -/
def mulTerm (x y : Limbs) (i j : Nat) : Nat :=
  if j ≤ i then limb x j * limb y (i - j) else 320 * limb x j * limb y (i + 17 - j)

theorem foldl_add_range (f : Nat → Nat) (n : Nat) :
    (List.range n).foldl (fun u j => u + f j) 0 = ∑ j ∈ Finset.range n, f j := by
  induction n with
  | zero => rfl
  | succ n ih => rw [List.range_succ, List.foldl_append, ih, Finset.sum_range_succ]; rfl

theorem mulLimb_eq_sum (x y : Limbs) (i : Nat) : mulLimb x y i = ∑ j ∈ Finset.range 17, mulTerm x y i j := by
  rw [← foldl_add_range, mulLimb]
  congr 1
  funext u j
  rw [mulTerm, apply_ite (u + ·)]

theorem mulLimb_eq_sum_add_sum (x y : Limbs) {i : Nat} (hi : i < 17) :
    mulLimb x y i = (∑ j ∈ Finset.range (i + 1), limb x j * limb y (i - j))
      + ∑ j ∈ Finset.Ico (i + 1) 17, 320 * limb x j * limb y (i + 17 - j) := by
  rw [mulLimb_eq_sum, ← Finset.sum_range_add_sum_Ico _ (show i + 1 ≤ 17 by omega)]
  congr 1 <;> refine Finset.sum_congr rfl fun j hj => ?_
  · have hlt := Finset.mem_range.mp hj
    exact if_pos (by omega)
  · have hge := (Finset.mem_Ico.mp hj).1
    exact if_neg (by omega)

/-! ### The value modulo `p` -/

/-- Multiplying a radix-`B` number of 17 digits by `B ^ j` rotates its digits `j` places, each digit that wraps taking the
factor `B ^ 17`. -/
theorem pow_mul_sum_rotate {R : Type*} [CommRing R] (B : R) (f : Nat → R) {j : Nat} (hj : j ≤ 17) :
    B ^ j * ∑ k ∈ Finset.range 17, f k * B ^ k =
      ∑ i ∈ Finset.range 17, (if j ≤ i then f (i - j) else B ^ 17 * f (i + 17 - j)) * B ^ i := by
  rw [← Finset.sum_range_add_sum_Ico _ (Nat.sub_le 17 j), ← Finset.sum_range_add_sum_Ico _ hj, mul_add, add_comm,
    Finset.sum_Ico_eq_sum_range, Finset.sum_Ico_eq_sum_range, Nat.sub_sub_self hj, Finset.mul_sum, Finset.mul_sum]
  congr 1 <;> refine Finset.sum_congr rfl fun i hi => ?_
  · have hlt := Finset.mem_range.mp hi
    have hpow : B ^ j * B ^ (i + 17 - j) = B ^ 17 * B ^ i := by
      rw [← pow_add, ← pow_add]
      congr 1
      omega
    rw [if_neg (by omega), show 17 - j + i = i + 17 - j by omega]
    linear_combination f (i + 17 - j) * hpow
  · rw [if_pos (Nat.le_add_right j i), Nat.add_sub_cancel_left, pow_add]
    ring

theorem radix_pow_seventeen : (256 : ZMod pPrime) ^ 17 = 320 := by
  have h : 256 ^ 17 % pPrime = 320 % pPrime := by norm_num [pPrime]
  exact_mod_cast (ZMod.natCast_eq_natCast_iff' _ _ _).mpr h

/-- The value of the unreduced product is the product of the values modulo `p` (R175, R176). -/
theorem valOf_pMulRaw_mod (x y : Limbs) : valOf (pMulRaw x y) % pPrime = val x * val y % pPrime := by
  apply (ZMod.natCast_eq_natCast_iff' _ _ _).mp
  have hterm (j : Nat) (hj : j ∈ Finset.range 17) :
      (limb x j * 256 ^ j : ZMod pPrime) * ∑ k ∈ Finset.range 17, (limb y k * 256 ^ k : ZMod pPrime) =
        ∑ i ∈ Finset.range 17, (mulTerm x y i j * 256 ^ i : ZMod pPrime) := by
    rw [mul_assoc, pow_mul_sum_rotate _ _ (Finset.mem_range.mp hj).le, radix_pow_seventeen, Finset.mul_sum]
    refine Finset.sum_congr rfl fun i _ => ?_
    rw [mulTerm]
    split_ifs <;> push_cast <;> ring
  rw [pMulRaw, valOf_map_range, val_eq_sum, val_eq_sum]
  push_cast
  rw [Finset.sum_mul, Finset.sum_congr rfl hterm, Finset.sum_comm]
  refine Finset.sum_congr rfl fun i _ => ?_
  rw [mulLimb_eq_sum, Nat.cast_sum, Finset.sum_mul]

/-! ### Bounds by the largest operands -/

/-- Limb by limb, `x` is at most `y`. -/
def LimbsLe (x y : Limbs) : Prop := ∀ k < 17, limb x k ≤ limb y k

theorem mulLimb_mono {x x' y y' : Limbs} (hx : LimbsLe x x') (hy : LimbsLe y y') {i : Nat} (hi : i < 17) :
    mulLimb x y i ≤ mulLimb x' y' i := by
  rw [mulLimb_eq_sum, mulLimb_eq_sum]
  refine Finset.sum_le_sum fun j hj => ?_
  have hj17 := Finset.mem_range.mp hj
  rw [mulTerm, mulTerm]
  split_ifs with hle
  · exact Nat.mul_le_mul (hx j hj17) (hy (i - j) (by omega))
  · exact Nat.mul_le_mul (Nat.mul_le_mul_left 320 (hx j hj17)) (hy (i + 17 - j) (by omega))

theorem pMulRaw_le {x x' y y' : Limbs} {b : Nat} (hx : LimbsLe x x') (hy : LimbsLe y y')
    (hb : ∀ i < 17, mulLimb x' y' i ≤ b) : ∀ t ∈ pMulRaw x y, t ≤ b := by
  intro t ht
  obtain ⟨i, hi, rfl⟩ := List.mem_map.mp ht
  have hi17 := List.mem_range.mp hi
  exact (mulLimb_mono hx hy hi17).trans (hb i hi17)

theorem valOf_pMulRaw_mono {x x' y y' : Limbs} (hx : LimbsLe x x') (hy : LimbsLe y y') :
    valOf (pMulRaw x y) ≤ valOf (pMulRaw x' y') := by
  rw [pMulRaw, pMulRaw, valOf_map_range, valOf_map_range]
  exact Finset.sum_le_sum fun i hi => Nat.mul_le_mul_right _ (mulLimb_mono hx hy (Finset.mem_range.mp hi))

/-- The largest limbs any register holds. -/
def maxLimbs : Limbs := Vector.replicate 17 0xFF#8

/-- The largest limbs of the accumulator after the addition of a block (R175). -/
def maxAcc : Limbs := limbsOf (List.replicate 16 0xFF#8 ++ [0x07#8])

/-- The largest limbs of a clamped key (R172). -/
def maxKey : Limbs := limbsOf clampMasks

theorem limbsLe_maxLimbs (x : Limbs) : LimbsLe x maxLimbs := by
  intro k hk
  have hmax : ∀ k < 17, limb maxLimbs k = 255 := by decide
  exact (limb_le x k).trans_eq (hmax k hk).symm

theorem limbsLe_maxAcc {x : Limbs} (h : limb x 16 ≤ 7) : LimbsLe x maxAcc := by
  intro k hk
  have hmax : ∀ k < 17, limb maxAcc k = if k = 16 then 7 else 255 := by decide
  rw [hmax k hk]
  split_ifs with h16
  · exact h16 ▸ h
  · exact limb_le x k

theorem limbsLe_maxKey {y : Limbs} (h15 : ∀ k ∈ [3, 7, 11, 15], limb y k ≤ 15)
    (h252 : ∀ k ∈ [4, 8, 12], limb y k ≤ 252) (h16 : limb y 16 = 0) : LimbsLe y maxKey := by
  intro k hk
  have hmax : ∀ k < 17, limb maxKey k =
      if k ∈ [3, 7, 11, 15] then 15 else if k ∈ [4, 8, 12] then 252 else if k = 16 then 0 else 255 := by decide
  rw [hmax k hk]
  split_ifs with hhigh hlow htop
  · exact h15 k hhigh
  · exact h252 k hlow
  · exact htop ▸ h16.le
  · exact limb_le y k

theorem clamp_limbsLe_maxKey (K : Block) : LimbsLe (clamp K) maxKey := by
  intro k hk
  rcases Nat.lt_or_ge k 16 with hlt | hge
  · rw [maxKey, limb_limbsOf _ hk, limb, clamp_toList]
    simp [clampMasks, List.getD_eq_getElem?_getD, List.getElem?_append_left, hlt, Nat.and_le_right]
  · obtain rfl : k = 16 := by omega
    simp [limb, clamp_toList, clampMasks]

/-- Settles O27: the two sums of a limb, the congruence, and the bounds by the largest operands. -/
theorem rawProductCongruent : Obligations.RawProductCongruent := by
  have hengine : ∀ i < 17, mulLimb maxAcc maxKey i ≤ 212877825 := by decide
  have hany : ∀ i < 17, mulLimb maxLimbs maxLimbs i ≤ 332993025 := by decide
  intro x y
  refine ⟨List.map_congr_left fun i hi => mulLimb_eq_sum_add_sum x y (List.mem_range.mp hi),
    fun _ => valOf_pMulRaw_mod x y, fun hx h15 h252 h16 => ?_, ?_⟩
  · exact pMulRaw_le (limbsLe_maxAcc hx) (limbsLe_maxKey h15 h252 h16) hengine
  · exact pMulRaw_le (limbsLe_maxLimbs x) (limbsLe_maxLimbs y) hany

end Sys2Proof.Machine
end

section
/-! PROOFS. Limb addition, the minimal reduction and one absorb (`42_poly1305.md` R173, R177 to R180) as arithmetic on the
numbers. -/

namespace Sys2Proof.Machine

/-- Limb addition adds the numbers modulo `2^136` (R173). -/
theorem val_pAdd (x c : Limbs) : val (pAdd x c) = (val x + val c) % 2 ^ 136 := by
  rw [pAdd, val_limbsOf (by simp [carryPass_length]), (carryPass_eq _ _).2, valOf_map_add, ← val_eq_valOf, ← val_eq_valOf,
    Nat.zero_add, List.length_map, List.length_range]
  norm_num

theorem val_pAdd_of_lt {x c : Limbs} (h : val x + val c < 2 ^ 136) : val (pAdd x c) = val x + val c := by
  rw [val_pAdd, Nat.mod_eq_of_lt h]

/-! ### The minimal reduction -/

theorem take_sixteen_append_getD {t : List Nat} (ht : t.length = 17) : t.take 16 ++ [t.getD 16 0] = t := by
  apply List.ext_getElem
  · simp [ht]
  · intro i hi _
    rcases Nat.lt_or_ge i 16 with hlt | hge
    · rw [List.getElem_append_left (by simp [ht, hlt]), List.getElem_take]
    · obtain rfl : i = 16 := by omega
      simp [ht]

/-- The first loop cuts the value at bit 128: the low bytes, and the running carry with limb 16 (R178). -/
theorem firstLoop_value {t : List Nat} (ht : t.length = 17) :
    lenum (carryPass 0 (t.take 16)).1 = valOf t % 2 ^ 128
      ∧ (carryPass 0 (t.take 16)).2 + t.getD 16 0 = valOf t / 2 ^ 128 := by
  have hlen : (t.take 16).length = 16 := by simp [ht]
  have hval : valOf t = valOf (t.take 16) + 2 ^ 128 * t.getD 16 0 := by
    conv_lhs => rw [← take_sixteen_append_getD ht, valOf_append, hlen]
    norm_num [valOf]
  obtain ⟨hcarry, hbytes⟩ := carryPass_eq 0 (t.take 16)
  rw [hlen, Nat.zero_add, show 256 ^ 16 = 2 ^ 128 by norm_num] at hcarry hbytes
  rw [hcarry, hbytes, hval]
  omega

/-- The second loop adds its carry to the sixteen bytes (R177). -/
theorem secondLoop_value (c : Nat) {B : Bytes} (hB : B.length = 16) :
    lenum (carryPass c (B.map BitVec.toNat)).1 = (c + lenum B) % 2 ^ 128
      ∧ (carryPass c (B.map BitVec.toNat)).2 = (c + lenum B) / 2 ^ 128 := by
  have hpow : 256 ^ (B.map BitVec.toNat).length = 2 ^ 128 := by
    rw [List.length_map, hB]
    norm_num
  rw [(carryPass_eq _ _).1, (carryPass_eq _ _).2, valOf_map_toNat, hpow]
  exact ⟨rfl, rfl⟩

/-- The bits above 130 come back times 5 (R178); limb 16 does not overflow while the carry is a 32-bit number. -/
theorem val_pMinReduce {t : List Nat} (ht : t.length = 17) (hQ : valOf t / 2 ^ 128 < 2 ^ 32) :
    val (pMinReduce t) =
      valOf t % 2 ^ 128 + 5 * (valOf t / 2 ^ 128 / 4) + 2 ^ 128 * (valOf t / 2 ^ 128 % 4) := by
  have hlen : (carryPass 0 (t.take 16)).1.length = 16 := by simp [carryPass_length, ht]
  have hlow : valOf t / 2 ^ 128 &&& 3 = valOf t / 2 ^ 128 % 4 := Nat.and_two_pow_sub_one_eq_mod _ 2
  have hshift : (valOf t / 2 ^ 128) >>> 2 = valOf t / 2 ^ 128 / 4 := Nat.shiftRight_eq_div_pow _ 2
  obtain ⟨hbytes, hcarry⟩ := firstLoop_value ht
  obtain ⟨hbytes₂, hcarry₂⟩ := secondLoop_value (5 * (valOf t / 2 ^ 128 / 4)) hlen
  have hlen₂ := carryPass_length (5 * (valOf t / 2 ^ 128 / 4)) ((carryPass 0 (t.take 16)).1.map BitVec.toNat)
  rw [List.length_map, hlen] at hlen₂
  simp only [pMinReduce, hcarry, hlow, hshift]
  rw [val_limbsOf (by rw [List.length_append, hlen₂]; rfl), lenum_append, hlen₂, hbytes₂, hcarry₂, hbytes, lenum, lenum,
    BitVec.toNat_ofNat]
  omega

/-- The minimal reduction keeps the value modulo `p` (R178). -/
theorem val_pMinReduce_mod {t : List Nat} (ht : t.length = 17) (hQ : valOf t / 2 ^ 128 < 2 ^ 32) :
    val (pMinReduce t) % pPrime = valOf t % pPrime := by
  have hval : valOf t = val (pMinReduce t) + pPrime * (valOf t / 2 ^ 128 / 4) := by
    rw [val_pMinReduce ht hQ, pPrime]
    omega
  rw [hval, Nat.add_mul_mod_self_left]

/-! ### One absorb -/

/-- The carry out of bit 128 of a product with a clamped key, by the largest operands (R180). -/
theorem valOf_pMulRaw_div_le {x y : Limbs} (hx : limb x 16 ≤ 7) (hy : LimbsLe y maxKey) :
    valOf (pMulRaw x y) / 2 ^ 128 ≤ 733176 := by
  have hmax : valOf (pMulRaw maxAcc maxKey) / 2 ^ 128 ≤ 733176 := by decide
  exact (Nat.div_le_div_right (valOf_pMulRaw_mono (limbsLe_maxAcc hx) hy)).trans hmax

/-- One absorb adds the block and multiplies by the key modulo `p`, and leaves the accumulator within its bound
(R179, R180). -/
theorem val_pAbsorb {r h c : Limbs} (hr : LimbsLe r maxKey) (hh : val h < 2 ^ 130 + 2 ^ 20)
    (hc : val c < 2 ^ 129) :
    val (pAbsorb r h c) < 2 ^ 130 + 2 ^ 20 ∧ val (pAbsorb r h c) % pPrime = (val h + val c) * val r % pPrime := by
  have hsum : val (pAdd h c) = val h + val c := val_pAdd_of_lt (by omega)
  have htop : limb (pAdd h c) 16 ≤ 7 := by
    rw [limb_sixteen, hsum]
    omega
  have hQ := valOf_pMulRaw_div_le htop hr
  have hlen : (pMulRaw (pAdd h c) r).length = 17 := by simp [pMulRaw]
  constructor
  · rw [pAbsorb, val_pMinReduce hlen (by omega)]
    omega
  · rw [pAbsorb, val_pMinReduce_mod hlen (by omega), valOf_pMulRaw_mod, hsum]

end Sys2Proof.Machine
end

section
/-! PROOFS. The full reduction (`42_poly1305.md` R182): its sign bit, its selection and the residue it gives. -/

namespace Sys2Proof.Machine

/-- Bit 7 of limb 16 is bit 135 of the number, its highest (R182). -/
theorem signBit_iff (x : Limbs) : x[16].getLsbD 7 = true ↔ 2 ^ 135 ≤ val x := by
  have hlimb : x[16].toNat = val x / 2 ^ 128 := (limb_of_fin x 16).symm.trans (limb_sixteen x)
  have hmsb : x[16].getLsbD 7 = x[16].msb := (BitVec.msb_eq_getLsbD_last x[16]).symm
  rw [hmsb, BitVec.msb_eq_decide, decide_eq_true_iff, hlimb]
  omega

/-- The mask of the selection: all ones when the sign bit stands, zero when it does not (R182). -/
theorem signMask (b : Byte) :
    ctMask32 ((b &&& 0x80#8).setWidth 32) 0x80#32 = if b.getLsbD 7 then BitVec.allOnes 32 else 0#32 := by
  have hand : b &&& 0x80#8 = if b.getLsbD 7 then 0x80#8 else 0#8 := BitVec.and_twoPow b 7
  rw [hand]
  split_ifs
  · exact ctMask32_self 0x80#32
  · exact ctMask32_of_ne (by decide)

theorem pFullReduce_eq (x : Limbs) : pFullReduce x = if (pAdd x negP)[16].getLsbD 7 then x else pAdd x negP := by
  apply Vector.ext
  intro i hi
  simp only [pFullReduce, signMask, Vector.getElem_ofFn]
  split_ifs
  · rw [ctSel32_allOnes]
    simp
  · rw [ctSel32_zero]
    simp

theorem val_negP : val negP = 2 ^ 136 - pPrime := rfl

/-- The sign bit of the difference stands exactly when `p` was too much to subtract (R182). -/
theorem signBit_sub_iff {x : Limbs} (hx : val x < 2 * pPrime) :
    (pAdd x negP)[16].getLsbD 7 = true ↔ val x < pPrime := by
  rw [signBit_iff, val_pAdd, val_negP]
  rw [pPrime] at hx ⊢
  omega

theorem val_pFullReduce {x : Limbs} (hx : val x < 2 * pPrime) : val (pFullReduce x) = val x % pPrime := by
  rw [pFullReduce_eq]
  split_ifs with hsign
  · exact (Nat.mod_eq_of_lt ((signBit_sub_iff hx).mp hsign)).symm
  · have hge : pPrime ≤ val x := Nat.not_lt.mp (mt (signBit_sub_iff hx).mpr hsign)
    rw [val_pAdd, val_negP]
    rw [pPrime] at hx hge ⊢
    omega

/-- Settles O30: the constant's value, then the residue and the sign of the difference. -/
theorem fullReductionCanonical : Obligations.FullReductionCanonical :=
  ⟨val_negP, fun _ hx => ⟨val_pFullReduce hx, signBit_sub_iff hx⟩⟩

end Sys2Proof.Machine
end

section
/-! PROOFS. The command PINIT (`42_poly1305.md` R183): its two faults and its whole next state. -/

namespace Sys2Proof.Machine

theorem blockAt_take (D : Bytes) {i m : Nat} (h : i + 16 ≤ m) : blockAt (D.take m) i = blockAt D i := by
  apply Vector.ext
  intro j hj
  simp [blockAt, List.getD_eq_getElem?_getD, List.getElem?_take_of_lt (show i + j < m by omega)]

/-- The context PINIT makes reads 32 bytes of DIN (R183). -/
theorem PolyCtx.init_take (D : Bytes) : PolyCtx.init (D.take 32) = PolyCtx.init D := by
  rw [PolyCtx.init, PolyCtx.init, blockAt_take D (by decide), blockAt_take D (by decide)]

/-- Settles O31: the two checks in order, then the whole next state from the key in DIN. -/
theorem pinitRule : Obligations.PinitRule := by
  refine ⟨rfl, fun arg len s => ⟨fun ha => ?_, fun ha hl => ?_, ?_⟩⟩
  · exact raises_fArg rfl (mt argUnused_iff.mp ha)
  · exact raises_fLen rfl (argUnused_iff.mpr ha) (mt (lenIs_iff (by decide)).mp hl)
  · rintro rfl rfl hdin
    exact exec_completes (code := codeOk) rfl hdin (PolyCtx.init_take s.din) rfl (List.append_nil _) rfl rfl

end Sys2Proof.Machine
end

section
/-! PROOFS. The message of the integer-level authenticator (`42_poly1305.md` R186) by blocks: its pieces are the whole
blocks of the streaming buffer and then the remainder. -/

namespace Sys2Proof.Machine

/-- One step of the integer-level authenticator, `a' = ((a + value of the piece) * rr) mod p` (R186). -/
def poly1305Step (rr a : Nat) (B : Bytes) : Nat := (a + lenum B + 2 ^ (8 * B.length)) * rr % pPrime

theorem poly1305Acc_eq (rr : Nat) (M : Bytes) : poly1305Acc rr M = (pieces M).foldl (poly1305Step rr) 0 := rfl

theorem wholeBlocks_map_toList (S : Bytes) :
    (wholeBlocks S).map Vector.toList = (List.range (S.length / 16)).map fun k => slice S (16 * k) 16 := by
  rw [wholeBlocks, List.map_map]
  refine List.map_congr_left fun k hk => blockAt_toList ?_
  have hlt := List.mem_range.mp hk
  omega

theorem pieces_of_remainderOf_nil {S : Bytes} (h : remainderOf S = []) :
    pieces S = (wholeBlocks S).map Vector.toList := by
  have hmod := remainderOf_length_eq_mod S
  rw [h, List.length_nil] at hmod
  rw [wholeBlocks_map_toList, pieces, show (S.length + 15) / 16 = S.length / 16 by omega]

theorem pieces_of_remainderOf_ne_nil {S : Bytes} (h : remainderOf S ≠ []) :
    pieces S = (wholeBlocks S).map Vector.toList ++ [remainderOf S] := by
  have hpos := List.length_pos_iff.mpr h
  have hmod := remainderOf_length_eq_mod S
  have hlast : slice S (16 * (S.length / 16)) 16 = remainderOf S :=
    List.take_of_length_le (by rw [← remainderOf]; omega)
  rw [wholeBlocks_map_toList, pieces, show (S.length + 15) / 16 = S.length / 16 + 1 by omega, List.range_succ,
    List.map_append, List.map_singleton, hlast]

theorem take_eq_flatMap_wholeBlocks (S : Bytes) :
    S.take (16 * (S.length / 16)) = (wholeBlocks S).flatMap Vector.toList := by
  apply List.append_cancel_right (bs := remainderOf S)
  rw [flatMap_wholeBlocks_append_remainderOf, remainderOf, List.take_append_drop]

/-- The running value over the whole blocks so far. -/
theorem poly1305Acc_take (rr : Nat) (M : Bytes) :
    poly1305Acc rr (M.take (16 * (M.length / 16))) =
      ((wholeBlocks M).map Vector.toList).foldl (poly1305Step rr) 0 := by
  have hwhole := (wholeBlocks_flatMap_append (wholeBlocks M) []).trans (List.append_nil _)
  have hrest := remainderOf_flatMap_append (wholeBlocks M) []
  rw [List.append_nil] at hwhole hrest
  rw [take_eq_flatMap_wholeBlocks, poly1305Acc_eq, pieces_of_remainderOf_nil hrest, hwhole]

end Sys2Proof.Machine
end

section
/-! PROOFS. A live Poly1305 context against the integer-level authenticator (`42_poly1305.md` R179 to R186): what the
context holds after PINIT, after each PUPD, and what PFIN makes of it. -/

namespace Sys2Proof.Machine

/-- The accumulator `h` stands for the running value `a`, within the bound each absorb keeps (R180). -/
structure Accumulates (h : Limbs) (a : Nat) : Prop where
  lt : val h < 2 ^ 130 + 2 ^ 20
  mod_eq : val h % pPrime = a

theorem Accumulates.lt_pPrime {h : Limbs} {a : Nat} (hacc : Accumulates h a) : a < pPrime :=
  hacc.mod_eq ▸ Nat.mod_lt _ (by decide)

theorem Accumulates.lt_two_mul_pPrime {h : Limbs} {a : Nat} (hacc : Accumulates h a) : val h < 2 * pPrime :=
  hacc.lt.trans (by decide)

section Absorbing

variable {r h : Limbs} {a : Nat}

/-- Absorbing a block value is one step of the authenticator (R179, R181). -/
theorem Accumulates.absorb (hr : LimbsLe r maxKey) (hacc : Accumulates h a) {c : Limbs} {B : Bytes}
    (hB : B.length ≤ 16) (hc : val c = lenum B + 2 ^ (8 * B.length)) :
    Accumulates (pAbsorb r h c) (poly1305Step (val r) a B) := by
  have hbytes := lenum_lt B
  have hpow : 2 ^ (8 * B.length) ≤ 2 ^ 128 := Nat.pow_le_pow_right (by decide) (by omega)
  rw [show 256 = 2 ^ 8 by rfl, ← pow_mul] at hbytes
  obtain ⟨hlt, hmod⟩ := val_pAbsorb hr hacc.lt (c := c) (by omega)
  refine ⟨hlt, hmod.trans ?_⟩
  rw [poly1305Step, ← hacc.mod_eq, hc, Nat.add_assoc]
  exact ((Nat.mod_modEq _ _).symm.add_right _).mul_right _

theorem Accumulates.foldl_fullBlock (hr : LimbsLe r maxKey) (hacc : Accumulates h a) (Bs : List Block) :
    Accumulates (Bs.foldl (fun h B => pAbsorb r h (fullBlock B)) h)
      ((Bs.map Vector.toList).foldl (poly1305Step (val r)) a) := by
  induction Bs generalizing h a with
  | nil => exact hacc
  | cons B Bs ih =>
    have hfirst : Accumulates (pAbsorb r h (fullBlock B)) (poly1305Step (val r) a B.toList) :=
      hacc.absorb hr (by simp) (by rw [val_fullBlock, Vector.length_toList])
    rw [List.foldl_cons, List.map_cons, List.foldl_cons]
    exact ih hfirst

end Absorbing

/-- What the context holds once PINIT has taken the key `K` and PUPD the message `M`: the two halves of the key, the
remainder of `M` in the buffer, and the running value over the whole blocks of `M`. -/
structure PolyCtx.Holds (K M : Bytes) (p : PolyCtx) : Prop where
  key_length : K.length = 32
  active : p.active = true
  r_eq : p.r = clamp (blockAt K 0)
  s_eq : p.s = blockAt K 16
  n_eq : p.n.toNat = (remainderOf M).length
  tail_eq : p.buf.toList.take p.n.toNat = remainderOf M
  acc : Accumulates p.h (((wholeBlocks M).map Vector.toList).foldl (poly1305Step (val p.r)) 0)

theorem PolyCtx.init_holds {K : Bytes} (hK : K.length = 32) : (PolyCtx.init K).Holds K [] where
  key_length := hK
  active := rfl
  r_eq := rfl
  s_eq := rfl
  n_eq := rfl
  tail_eq := rfl
  acc := ⟨show val zeroLimbs < 2 ^ 130 + 2 ^ 20 by decide, rfl⟩

section Live

variable {K M : Bytes} {p : PolyCtx}

theorem PolyCtx.Holds.key_limbsLe (hp : p.Holds K M) : LimbsLe p.r maxKey :=
  hp.r_eq ▸ clamp_limbsLe_maxKey _

theorem PolyCtx.Holds.val_r (hp : p.Holds K M) : val p.r = clampNat (lenum (slice K 0 16)) := by
  rw [hp.r_eq, val_clamp, blockAt_toList (by rw [hp.key_length]; decide)]

theorem PolyCtx.Holds.n_le (hp : p.Holds K M) : p.n.toNat ≤ 15 := by
  rw [hp.n_eq, remainderOf_length_eq_mod]
  omega

/-- A payload through the streaming buffer is absorbed as if it had come with the message (R184, R186). -/
theorem PolyCtx.Holds.update (hp : p.Holds K M) (D : Bytes) : (p.update D).Holds K (M ++ D) := by
  have hbwa := bwa_streams p.buf D hp.n_le
  have hn : (BitVec.ofNat 5 (bwa p.buf p.n.toNat D).n).toNat = (bwa p.buf p.n.toNat D).n :=
    Nat.mod_eq_of_lt (hbwa.n_le.trans_lt (by decide))
  rw [hp.tail_eq] at hbwa
  rw [PolyCtx.update_eq]
  refine ⟨hp.key_length, hp.active, hp.r_eq, hp.s_eq, ?_, ?_, ?_⟩
  · rw [hn, hbwa.n_eq, ← remainderOf_append]
  · rw [hn, hbwa.tail_eq, ← remainderOf_append]
  · rw [wholeBlocks_append, List.map_append, List.foldl_append, ← hbwa.blocks_eq]
    exact hp.acc.foldl_fullBlock hp.key_limbsLe _

/-- After the pending block the accumulator stands for the whole message (R181, R185). -/
theorem PolyCtx.Holds.flush (hp : p.Holds K M) : Accumulates p.flush.h (poly1305Acc (val p.r) M) := by
  have hn := hp.n_le
  rw [PolyCtx.flush, poly1305Acc_eq]
  split_ifs with hpos
  · rw [pieces_of_remainderOf_ne_nil (List.length_pos_iff.mp (hp.n_eq ▸ hpos)), List.foldl_append, ← hp.tail_eq]
    refine hp.acc.absorb hp.key_limbsLe ((List.length_take_le _ _).trans (by omega)) ?_
    rw [val_shortBlock _ (by omega), buffered_length _ (by omega)]
  · rw [pieces_of_remainderOf_nil (List.length_eq_zero_iff.mp (by rw [← hp.n_eq]; omega))]
    exact hp.acc

/-- The low sixteen limbs are the low sixteen bytes of the number. -/
theorem take_toList_eq_le128 (x : Limbs) : x.toList.take 16 = le128 (val x) := by
  apply List.ext_getElem
  · simp [le128]
  · intro i hi _
    have hlt : i < 16 := (List.length_take_le _ _).trans_lt' hi
    apply BitVec.eq_of_toNat_eq
    have hbyte := lenum_byte x.toList i
    simp [le128, Nat.shiftRight_eq_div_pow, pow_mul, val, hbyte, List.getD_eq_getElem?_getD, show i < 17 by omega]

/-- The tag of the context is the authenticator of the message it was fed (R185, R186). -/
theorem PolyCtx.Holds.tag (hp : p.Holds K M) : p.tag = poly1305 K M := by
  have hflush := hp.flush
  have hs : val (limbsOf p.s.toList) = lenum (slice K 16 16) := by
    rw [val_limbsOf_of_le (by simp), hp.s_eq, blockAt_toList (by rw [hp.key_length])]
  have hpad : lenum (slice K 16 16) < 2 ^ 128 := by
    have h := lenum_lt (slice K 16 16)
    rwa [slice_length (by rw [hp.key_length]), show 256 ^ 16 = 2 ^ 128 by norm_num] at h
  have hsum : val (pAdd (pFullReduce p.flush.h) (limbsOf p.s.toList)) =
      poly1305Acc (val p.r) M + lenum (slice K 16 16) := by
    have hlt : poly1305Acc (val p.r) M < 2 ^ 130 := hflush.lt_pPrime.trans (by decide)
    have hres : val (pFullReduce p.flush.h) = poly1305Acc (val p.r) M :=
      (val_pFullReduce hflush.lt_two_mul_pPrime).trans hflush.mod_eq
    rw [val_pAdd_of_lt (by rw [hres, hs]; omega), hres, hs]
  rw [PolyCtx.tag, take_toList_eq_le128, hsum, hp.val_r, poly1305]

end Live

/-- `P` after a command that completes. -/
theorem poly_of_exec {i : Instr} {s t : State} (hnone : commandFault i s = none) (hdin : i.len.toNat ≤ s.din.length)
    (hex : exec i s = .next t) : t.p = polyAfter i (s.din.take i.len.toNat) s.p := by
  rw [exec_effects hnone hdin] at hex
  exact (Host.Outcome.next.inj hex) ▸ rfl

/-- Every run of a context keeps what the context should hold: PINIT makes it, PUPD extends the message. -/
theorem PolyRun.holds {K M : Bytes} {s : State} (hrun : PolyRun K M s) : s.p.Holds K M := by
  induction hrun with
  | start hdin hex =>
    rw [poly_of_exec (i := .pinit 0#8 32#16) rfl hdin hex]
    exact PolyCtx.init_holds (List.length_take_of_le hdin)
  | @feed K M s t len _ hdin hex ih =>
    have hnone : commandFault (.pupd 0#8 len) s = none := by simp [commandFault, pupdCheck, argUnused, ih.active]
    rw [poly_of_exec hnone hdin hex]
    exact ih.update _
  | other _ hp ih => exact hp ▸ ih

/-- Settles O34: PFIN pushes the tag of a context that holds the message, whose accumulator stands for the whole blocks. -/
theorem poly1305Authenticator : Obligations.Poly1305Authenticator := by
  intro K M s hrun
  have hp := hrun.holds
  have hnone : commandFault (.pfin 0#8 0#16) s = none := by
    simp [commandFault, pfinCheck, argUnused, lenIs, hp.active]
  refine ⟨⟨_, exec_effects hnone (Nat.zero_le _), congrArg (s.dout ++ ·) hp.tag⟩, ?_⟩
  rw [hp.acc.mod_eq, poly1305Acc_take, hp.val_r]

end Sys2Proof.Machine
end

section
/-! PROOFS. The two integer views of a block (`43_ghash.md` R212): `beint` is the big-endian number of the bytes, so `blkBe`
reads the block back byte by byte, and `blkBe` loses no bit, so the two are inverses; `pint` is the same number reversed. -/

namespace Sys2Proof.Machine

/-- One step of `beint`: a byte goes in below the number so far (R212). -/
def appendByte (v : BitVec 128) (b : Byte) : BitVec 128 := (v <<< 8) ||| b.setWidth 128

theorem beint_eq_foldl (B : Block) : beint B = B.toList.foldl appendByte 0#128 := rfl

theorem appendByte_toNat (v : BitVec 128) (b : Byte) :
    (appendByte v b).toNat = (256 * v.toNat + b.toNat) % 2 ^ 128 := by
  have hdisjoint : v <<< 8 &&& b.setWidth 128 = 0#128 := by
    ext i hi
    by_cases h : i < 8
    · simp [h]
    · simp [BitVec.getLsbD_of_ge b i (by omega)]
  have hb : b.toNat < 2 ^ 128 := b.isLt.trans (by decide)
  rw [appendByte, ← BitVec.add_eq_or_of_and_eq_zero _ _ hdisjoint, BitVec.toNat_add, BitVec.toNat_shiftLeft,
    BitVec.toNat_setWidth, Nat.mod_eq_of_lt hb, Nat.mod_add_mod, Nat.shiftLeft_eq, Nat.mul_comm]

theorem foldl_appendByte_toNat (B : Bytes) : (B.foldl appendByte 0#128).toNat = lenum B.reverse % 2 ^ 128 := by
  induction B using List.reverseRecOn with
  | nil => rfl
  | append_singleton B b ih =>
    rw [List.foldl_append, List.foldl_cons, List.foldl_nil, appendByte_toNat, ih, List.reverse_concat, lenum]
    omega

theorem beint_toNat (B : Block) : (beint B).toNat = lenum B.toList.reverse := by
  have hlt : lenum B.toList.reverse < 2 ^ 128 := by
    have h := lenum_lt B.toList.reverse
    rwa [List.length_reverse, Vector.length_toList, show 256 ^ 16 = 2 ^ 128 by norm_num] at h
  rw [beint_eq_foldl, foldl_appendByte_toNat, Nat.mod_eq_of_lt hlt]

/-- `blkBe` takes from `beint` the bytes it was made of. -/
theorem blkBe_beint (B : Block) : blkBe (beint B) = B := by
  apply Vector.ext
  intro j hj
  apply BitVec.eq_of_toNat_eq
  have hbyte := lenum_byte B.toList.reverse (15 - j)
  rw [blkBe, Vector.getElem_ofFn, BitVec.extractLsb'_toNat, beint_toNat, Nat.shiftRight_eq_div_pow, pow_mul]
  refine hbyte.trans ?_
  have hlt : 15 - j < B.toList.reverse.length := by simp; omega
  rw [List.getD_eq_getElem _ _ hlt, List.getElem_reverse]
  simp [show 15 - (15 - j) = j by omega]

/-- Every bit of the number stands in the block (R210, R212). -/
theorem blockBit_blkBe (v : BitVec 128) {i : Nat} (hi : i < 128) : blockBit (blkBe v) i = v.getLsbD (127 - i) := by
  have hbyte : i / 8 < 16 := by omega
  have hbit : 8 * (15 - i / 8) + (7 - i % 8) = 127 - i := by omega
  simp [blockBit, blkBe, List.getD_eq_getElem?_getD, hbyte, hbit, show 7 - i % 8 < 8 by omega]

theorem blkBe_injective : Function.Injective blkBe := by
  intro v w h
  apply BitVec.eq_of_getLsbD_eq
  intro k hk
  rw [show k = 127 - (127 - k) by omega, ← blockBit_blkBe v (by omega), ← blockBit_blkBe w (by omega), h]

theorem beint_blkBe (v : BitVec 128) : beint (blkBe v) = v := blkBe_injective (blkBe_beint (blkBe v))

theorem beint_getLsbD (B : Block) {i : Nat} (hi : i < 128) : (beint B).getLsbD (127 - i) = blockBit B i := by
  rw [← blockBit_blkBe (beint B) hi, blkBe_beint]

theorem pint_getLsbD (B : Block) {i : Nat} (hi : i < 128) : (pint B).getLsbD i = blockBit B i := by
  rw [pint, BitVec.getLsbD_reverse, BitVec.getMsbD_eq_getLsbD, decide_eq_true hi, Bool.true_and, ← beint_getLsbD B hi]

theorem blkP_pint (B : Block) : blkP (pint B) = B := by
  rw [blkP, pint, BitVec.reverse_reverse_eq, blkBe_beint]

theorem pint_blkP (v : BitVec 128) : pint (blkP v) = v := by
  rw [pint, blkP, beint_blkBe, BitVec.reverse_reverse_eq]

/-- Settles O35: the number from the bytes, the bits through the inverse of each view. -/
theorem blockIntegerViews : Obligations.BlockIntegerViews := fun B =>
  ⟨fun _ hi => ⟨beint_getLsbD B hi, pint_getLsbD B hi⟩, beint_toNat B, rfl, blkBe_beint B, blkP_pint B,
    fun v => ⟨beint_blkBe v, pint_blkP v⟩⟩

end Sys2Proof.Machine
end

section
/-! PROOFS. What a payload makes of the GHASH context, register by register: the zero-padding flush (`43_ghash.md` R219) and
the rules of GAAD and GCIPH (R223, R224). -/

namespace Sys2Proof.Machine

/-- The buffered bytes, then zeros (R219). -/
theorem zeroFrom_toList (buf : Block) {n : Nat} (hn : n ≤ 16) :
    (zeroFrom buf n).toList = buf.toList.take n ++ zeros (16 - n) := by
  apply List.ext_getElem
  · simp [zeros, hn]
  · intro j hj _
    rw [Vector.length_toList] at hj
    by_cases hlow : j < n
    · simp [zeroFrom, hj, hlow, Nat.not_le.mpr hlow]
    · simp [zeroFrom, zeros, hn, Nat.le_of_not_lt hlow]

theorem GhashCtx.pad_of_empty {g : GhashCtx} (h : g.n = 0#5) : g.pad = g := by simp [GhashCtx.pad, h]

theorem GhashCtx.pad_of_pending {g : GhashCtx} (h : g.n ≠ 0#5) :
    g.pad =
      { g with
        buf := zeroFrom g.buf g.n.toNat
        n := 0#5
        Y := gMul g.backend (xorBlock g.Y (zeroFrom g.buf g.n.toNat)) g.H } :=
  if_pos (by bv_omega)

/-- Settles O37: the empty buffer, and the pending bytes padded to the block that is absorbed. -/
theorem padFlush : Obligations.PadFlush := fun g =>
  ⟨GhashCtx.pad_of_empty, fun hn hle =>
    ⟨zeroFrom g.buf g.n.toNat, zeroFrom_toList g.buf (by omega), GhashCtx.pad_of_pending hn⟩⟩

/-- A byte count grows modulo `2^64` (R228). -/
theorem add_len_eq_ofNat (count : BitVec 64) (len : BitVec 16) :
    count + len.setWidth 64 = BitVec.ofNat 64 (count.toNat + len.toNat) := by
  apply BitVec.eq_of_toNat_eq
  simp

theorem GhashCtx.addAad_eq (len : BitVec 16) (D : Bytes) (g : GhashCtx) :
    g.addAad len D =
      { g with
        lenAad := BitVec.ofNat 64 (g.lenAad.toNat + len.toNat)
        Y := (bwa g.buf g.n.toNat D).blocks.foldl (fun Y X => gMul g.backend (xorBlock Y X) g.H) g.Y
        buf := (bwa g.buf g.n.toNat D).buf
        n := BitVec.ofNat 5 (bwa g.buf g.n.toNat D).n } := by
  rw [GhashCtx.addAad, GhashCtx.absorb_eq, add_len_eq_ofNat]

/-- GCIPH's change of the context `g` that its move out of `AAD` leaves as `k` in `CIPHER`: `k` is `g` or `g` padded, so it has
`g`'s subkey, backend and ciphertext count (R224). -/
theorem GhashCtx.addCipher_eq {g k : GhashCtx} (hk : g.enterCipher = { k with phase := .cipher }) (len : BitVec 16)
    (D : Bytes) :
    g.addCipher len D =
      { k with
        phase := .cipher
        lenCt := BitVec.ofNat 64 (g.lenCt.toNat + len.toNat)
        Y := (bwa k.buf k.n.toNat D).blocks.foldl (fun Y X => gMul g.backend (xorBlock Y X) g.H) k.Y
        buf := (bwa k.buf k.n.toNat D).buf
        n := BitVec.ofNat 5 (bwa k.buf k.n.toNat D).n } := by
  obtain ⟨hH, -, hlen, hbackend, -⟩ := g.enterCipher_frame
  rw [hk] at hH hlen hbackend
  rw [GhashCtx.addCipher, GhashCtx.absorb_eq, hk, ← hH, ← hlen, ← hbackend, ← add_len_eq_ofNat]

theorem GhashCtx.enterCipher_of_aad {g : GhashCtx} (h : g.phase = .aad) :
    g.enterCipher = { g.pad with phase := .cipher } := if_pos h

theorem GhashCtx.enterCipher_of_cipher {g : GhashCtx} (h : g.phase = .cipher) :
    g.enterCipher = { g with phase := .cipher } := by
  rw [GhashCtx.enterCipher, if_neg (by rw [h]; decide), ← h]

end Sys2Proof.Machine
end

section
/-! PROOFS. The commands GINIT, GAAD, GCIPH and GTAG (`43_ghash.md` R222 to R226): the faults of each in order and its whole
next state. -/

namespace Sys2Proof.Machine

section OrderedChecks

/-! The checks of a command one after another (`60_exceptions.md` R304). -/

variable {i : Instr} {s : State} {ok : Bool} {c : FaultCause} {rest : List (Bool × FaultCause)}

theorem raises_of_first (hc : commandFault i s = firstFault ((ok, c) :: rest)) (h : ¬ ok = true) : Raises i s c :=
  exec_fault (by rw [hc, firstFault_cons, if_neg h])

theorem commandFault_rest (hc : commandFault i s = firstFault ((ok, c) :: rest)) (h : ok = true) :
    commandFault i s = firstFault rest := by
  rw [hc, firstFault_cons, if_pos h]

end OrderedChecks

/-- Settles O40: the two checks in order, then the whole next state from the subkey in DIN and the strap. -/
theorem ginitRule : Obligations.GinitRule := by
  refine ⟨rfl, fun arg len s => ⟨fun ha => ?_, fun ha hl => ?_, ?_⟩⟩
  · exact raises_fArg rfl (mt argUnused_iff.mp ha)
  · exact raises_fLen rfl (argUnused_iff.mpr ha) (mt (lenIs_iff (by decide)).mp hl)
  · rintro rfl rfl hdin
    have hg : ghashAfter (.ginit 0#8 16#16) (s.din.take 16) s.capClmul s.g =
        GhashCtx.init (blockAt s.din 0) s.capClmul := by
      rw [ghashAfter, blockAt_take s.din (by decide)]
    exact exec_completes (code := codeOk) rfl hdin rfl hg (List.append_nil _) rfl rfl

/-- Settles O41: `ARG`, then the two phase tests, then the whole next state by the buffer and the absorbed blocks. -/
theorem gaadRule : Obligations.GaadRule := by
  intro arg len s
  have hphases (ha : arg = 0#8) : commandFault (.gaad arg len) s =
      firstFault [(s.g.phase != .invalid, .fGseqInvalid), (s.g.phase != .cipher, .fGseqAad)] :=
    commandFault_rest rfl (argUnused_iff.mpr ha)
  refine ⟨fun ha => ?_, fun ha hphase => ?_, fun ha hphase => ?_, fun ha hphase hdin => ⟨?_, ?_⟩⟩
  · exact raises_of_first rfl (mt argUnused_iff.mp ha)
  · exact raises_of_first (hphases ha) (by simp [hphase])
  · exact raises_of_first (commandFault_rest (hphases ha) (by simp [hphase])) (by simp [hphase])
  · simp [ha, encode, encodeFields, Instr.opc]
  · have hnone : commandFault (.gaad arg len) s = none := by simp [hphases ha, hphase]
    exact exec_completes (code := codeOk) hnone hdin rfl (s.g.addAad_eq len _) (List.append_nil _) rfl
      (show response 0x31#8 codeOk = 0x31000000#32 from rfl)

/-- The next state of a GCIPH that completes, from the context its first line leaves (R224). -/
theorem exec_gciph {arg : BitVec 8} {len : BitVec 16} {s : State} {k : GhashCtx}
    (hnone : commandFault (.gciph arg len) s = none) (hdin : len.toNat ≤ s.din.length)
    (hk : s.g.enterCipher = { k with phase := .cipher }) :
    exec (.gciph arg len) s = .next
      { s with
        g := { k with
          phase := .cipher
          lenCt := BitVec.ofNat 64 (s.g.lenCt.toNat + len.toNat)
          Y := (bwa k.buf k.n.toNat (s.din.take len.toNat)).blocks.foldl
            (fun Y X => gMul s.g.backend (xorBlock Y X) s.g.H) k.Y
          buf := (bwa k.buf k.n.toNat (s.din.take len.toNat)).buf
          n := BitVec.ofNat 5 (bwa k.buf k.n.toNat (s.din.take len.toNat)).n }
        cmd := s.cmd.tail
        din := s.din.drop len.toNat
        rsp := s.rsp ++ [0x32000000#32] } :=
  exec_completes (code := codeOk) hnone hdin rfl (GhashCtx.addCipher_eq hk len _) (List.append_nil _) rfl
    (show response 0x32#8 codeOk = 0x32000000#32 from rfl)

/-- Settles O42: `ARG`, then the phase test, then the whole next state in each of the two live phases. -/
theorem gciphRule : Obligations.GciphRule := by
  intro arg len s
  have hphases (ha : arg = 0#8) : commandFault (.gciph arg len) s =
      firstFault [(s.g.phase != .invalid, .fGseqInvalid)] :=
    commandFault_rest rfl (argUnused_iff.mpr ha)
  refine ⟨fun ha => ?_, fun ha hphase => ?_, fun ha hlive hdin => ⟨?_, ?_⟩⟩
  · exact raises_of_first rfl (mt argUnused_iff.mp ha)
  · exact raises_of_first (hphases ha) (by simp [hphase])
  · simp [ha, encode, encodeFields, Instr.opc]
  · have hnone : commandFault (.gciph arg len) s = none := by simp [hphases ha, hlive]
    cases hphase : s.g.phase with
    | invalid => exact absurd hphase hlive
    | aad => exact ⟨s.g.pad, fun _ => rfl, nofun, exec_gciph hnone hdin (GhashCtx.enterCipher_of_aad hphase)⟩
    | cipher => exact ⟨s.g, nofun, fun _ => rfl, exec_gciph hnone hdin (GhashCtx.enterCipher_of_cipher hphase)⟩

/-- The full tag GTAG cuts, byte by byte (R226). -/
theorem xorBlock_blockAt_toList (D : Bytes) (i j : Nat) :
    (xorBlock (blockAt D i) (blockAt D j)).toList =
      (List.range 16).map fun k => D.getD (i + k) 0#8 ^^^ D.getD (j + k) 0#8 := by
  apply List.ext_getElem
  · simp
  · intro k _ _
    simp [xorBlock, blockAt]

theorem encode_gtag (arg : BitVec 8) : encode (.gtag arg 32#16) = 0x34000020#32 ||| (arg.setWidth 32 <<< 16) := by
  have hconst : (0x34#8).setWidth 32 <<< 24 ||| (32#16).setWidth 32 = 0x34000020#32 := rfl
  rw [encode, encodeFields, Instr.arg_gtag, Instr.len_gtag, Instr.opc, BitVec.or_assoc,
    BitVec.or_comm (arg.setWidth 32 <<< 16), ← BitVec.or_assoc, hconst]

/-- Settles O44: the tag length, then `LEN`, then the whole next state by the xor of the two halves in DIN. -/
theorem gtagRule : Obligations.GtagRule := by
  intro arg len s
  have hlength (hlo : 2 ≤ arg.toNat) (hhi : arg.toNat ≤ 16) : commandFault (.gtag arg len) s =
      firstFault [(lenIs 32 len, .fLen)] :=
    commandFault_rest rfl (argIn_iff.mpr ⟨hlo, hhi⟩)
  refine ⟨fun ha => ?_, fun hlo hhi hl => ?_, ?_⟩
  · exact raises_of_first rfl (mt argIn_iff.mp (by omega))
  · exact raises_of_first (hlength hlo hhi) (mt (lenIs_iff (by decide)).mp hl)
  · rintro hlo hhi rfl hdin
    have hout : outOf (.gtag arg 32#16) (s.din.take 32) (s.popCmd.dropDin 32) =
        ((List.range 16).map fun i => s.din.getD i 0#8 ^^^ s.din.getD (16 + i) 0#8).take arg.toNat := by
      rw [outOf, blockAt_take s.din (by decide), blockAt_take s.din (by decide), xorBlock_blockAt_toList]
      simp only [Nat.zero_add]
    exact ⟨encode_gtag arg, exec_completes (code := codeOk) (hlength hlo hhi) hdin rfl rfl
      (congrArg (s.dout ++ ·) hout) rfl (show response 0x34#8 codeOk = 0x34000000#32 from rfl)⟩

end Sys2Proof.Machine
end

section
/-! PROOFS. The system commands NOP and RDSR (`44_system.md` R261, R262): the word each register number reads, then the faults
of each command and its whole next state. -/

namespace Sys2Proof.Machine

/-- Settles O11: the two checks in order, then the whole next state of a command with no payload and no result. -/
theorem nopRule : Obligations.NopRule := by
  refine ⟨rfl, fun arg len s => ⟨fun ha => ?_, fun ha hl => ?_, ?_⟩⟩
  · exact raises_fArg rfl (mt argUnused_iff.mp ha)
  · exact raises_fLen rfl (argUnused_iff.mpr ha) (mt (lenIs_iff (by decide)).mp hl)
  · rintro rfl rfl
    exact exec_completes (code := codeOk) rfl (Nat.zero_le _) rfl rfl (List.append_nil _) rfl rfl

/-- `SR1` is the strap as a number (`10_state.md` R40). -/
theorem cfgWord_eq (s : State) : cfgWord s = if s.capClmul then 1#32 else 0#32 := by
  rw [cfgWord]
  cases s.capClmul <;> rfl

/-- The register each legal `ARG` of RDSR reads, little-endian (R262). -/
theorem statusBytes_eq {k : BitVec 8} (hk : k.toNat ≤ 2) (s : State) :
    statusBytes k s = le32 (if k = 0#8 then 0x564D4331#32
      else if k = 1#8 then (if s.capClmul then 1#32 else 0#32) else statusWord s) := by
  have hnumber : k = 0#8 ∨ k = 1#8 ∨ k = 2#8 := by bv_omega
  rw [← cfgWord_eq]
  rcases hnumber with rfl | rfl | rfl <;> rfl

/-- Settles O12: the two checks in order, then the whole next state by the register's bytes. -/
theorem rdsrRule : Obligations.RdsrRule := by
  intro arg len s
  have hlegal (hle : arg.toNat ≤ 2) : argIn 0 2 arg = true := argIn_iff.mpr ⟨Nat.zero_le _, hle⟩
  refine ⟨fun hgt => ?_, fun hle hl => ?_, fun hle hl => ⟨?_, ?_⟩⟩
  · exact raises_fArg rfl (mt argIn_iff.mp (by omega))
  · exact raises_fLen rfl (hlegal hle) (mt (lenIs_iff (by decide)).mp hl)
  · simp [hl, encode, encodeFields, Instr.opc]
  · subst hl
    have hnone : commandFault (.rdsr arg 0#16) s = none := commandFault_none_of_legal rfl (hlegal hle) rfl
    exact exec_completes (code := codeOk) hnone (Nat.zero_le _) rfl rfl
      (congrArg (s.dout ++ ·) (statusBytes_eq hle (s.popCmd.dropDin 0))) rfl
      (show response 0x01#8 codeOk = 0x01000000#32 from rfl)

end Sys2Proof.Machine
end

section
/-! PROOFS. Decoding undoes encoding: a word made of a command's three fields selects that command (`30_encoding.md` R90,
R94). -/

namespace Sys2Proof

theorem decode_encode (i : Instr) : decode (encode i) = .ok i := by
  rw [decode, opcOf_encode, argOf_encode, lenOf_encode]
  cases i <;> rfl

end Sys2Proof
end

section
/-! PROOFS. Faults (`60_exceptions.md` R301 to R306): the numbers fault entry writes, and the order in which the checks of each
command are made. -/

namespace Sys2Proof.Machine

/-- A response word as a number: `OPC` in 31:24 over `CODE` in 7:0 (`30_encoding.md` R96). -/
theorem response_toNat (opc code : BitVec 8) : (response opc code).toNat = opc.toNat * 2 ^ 24 + code.toNat := by
  have := code.isLt
  rw [response_eq, encodeFields_toNat, BitVec.toNat_setWidth]
  simp only [BitVec.toNat_zero]
  omega

/-- Bit 7 lies above every cause, so setting it adds `0x80` (`30_encoding.md` R97). -/
theorem codeFault_toNat (c : FaultCause) : (codeFault c).toNat = 0x80 + c.code.toNat := by
  cases c <;> rfl

/-- The fault response as a number. -/
theorem response_codeFault (opc : BitVec 8) (c : FaultCause) :
    response opc (codeFault c) = BitVec.ofNat 32 (opc.toNat * 2 ^ 24 + 0x80 + c.code.toNat) := by
  rw [Nat.add_assoc, ← codeFault_toNat, ← response_toNat, BitVec.ofNat_toNat, BitVec.setWidth_eq]

/-- Settles O47: the step is fault entry, whose fields are R306's, and a core whose `FAULT` is set has no enabled step. -/
theorem faultEntryExact : Obligations.FaultEntryExact := by
  intro s w rest c hf hc hw
  have hstep := step_fault hf hc hw
  refine ⟨c.code.toNat, by cases c <;> rfl, ?_, fun t ht => ?_⟩
  · rw [hstep, State.takeFault_eq, response_codeFault, BitVec.ofNat_toNat, BitVec.setWidth_eq]
    simp [hc]
  · obtain rfl := Host.Outcome.next.inj (hstep.symm.trans ht)
    exact enabled_of_fault (State.takeFault_fault _ c w)

section Legality

/-! The tests on the two immediates, as the legality tables of R92 and R93 write them. -/

variable (arg : BitVec 8) (len : BitVec 16)

theorem argUnused_eq_decide : argUnused arg = decide (arg.toNat = 0) := by
  rw [Bool.eq_iff_iff, argUnused_iff, decide_eq_true_iff, ← BitVec.toNat_inj]
  rfl

theorem argIn_eq_decide (lo hi : Nat) : argIn lo hi arg = decide (lo ≤ arg.toNat ∧ arg.toNat ≤ hi) := by
  rw [Bool.eq_iff_iff, argIn_iff, decide_eq_true_iff]

theorem lenIs_eq_decide (n : Nat) : lenIs n len = decide (len.toNat = n) := rfl

theorem lenPairs_eq_decide : lenPairs len = decide (len.toNat % 2 = 0 ∧ 2 ≤ len.toNat) := by
  rw [Bool.eq_iff_iff, lenPairs_iff, decide_eq_true_iff]

end Legality

/-- The cause an illegal `ARG` raises (`60_exceptions.md` R301). -/
def argCause : Instr → FaultCause
  | .gtag _ _ => .fTaglen
  | _ => .fArg

/-- The checks on the contexts, the last of R303's cells, in their order. -/
def stateChecks (i : Instr) (s : State) : List (Bool × FaultCause) :=
  match i with
  | .pupd _ _ => [(s.p.active, .fPseq)]
  | .pfin _ _ => [(s.p.active, .fPseq)]
  | .gaad _ _ => [(s.g.phase != .invalid, .fGseqInvalid), (s.g.phase != .cipher, .fGseqAad)]
  | .gciph _ _ => [(s.g.phase != .invalid, .fGseqInvalid)]
  | .gfin _ _ => [(s.g.phase != .invalid, .fGseqInvalid)]
  | _ => []

/-- Every command checks `ARG`, then `LEN`, then its context; where any `LEN` is legal that check passes (R304). -/
theorem commandFault_eq_firstFault (i : Instr) (s : State) :
    commandFault i s = firstFault ((i.argLegal, argCause i) :: (i.lenLegal, .fLen) :: stateChecks i s) := by
  cases i with
  | pupd arg len | gaad arg len | gciph arg len =>
    simp only [commandFault, pupdCheck, gaadCheck, gciphCheck, argUnused_eq_decide]
    rfl
  | wipe arg len | gtag arg len =>
    simp only [commandFault, wipeCheck, gtagCheck, argIn_eq_decide]
    rfl
  | rdsr arg len | gfmul arg len =>
    simp only [commandFault, rdsrCheck, gfmulCheck, argIn_eq_decide, Nat.zero_le, true_and]
    rfl
  | cteq arg len =>
    simp only [commandFault, cteqCheck, argUnused_eq_decide, lenPairs_eq_decide]
    rfl
  | _ =>
    simp only [commandFault, nopCheck, ctmaskCheck, ctselCheck, pinitCheck, pfinCheck, ginitCheck, gfinCheck,
      argUnused_eq_decide]
    rfl

/-- The order of R304 with the legality of each field as a condition. -/
theorem commandFault_eq_ite (i : Instr) (s : State) :
    commandFault i s =
      if i.argLegal = false then some (argCause i)
      else if i.lenLegal = false then some .fLen
      else firstFault (stateChecks i s) := by
  rw [commandFault_eq_firstFault, firstFault_cons, firstFault_cons]
  cases i.argLegal <;> cases i.lenLegal <;> rfl

/-- Settles O48: the three groups of checks in R304's order, and a command whose checks fail takes that fault. -/
theorem faultPriority : Obligations.FaultPriority := by
  refine ⟨fun w s hillegal => ?_, fun i s => ⟨wordFault_command (decode_encode i) s, ?_, fun c => exec_fault⟩⟩
  · cases hd : decode w with
    | error e => exact wordFault_illegal hd s
    | ok i => exact absurd hd (hillegal i)
  · rw [commandFault_eq_ite]
    cases i with
    | gaad arg len | gciph arg len | gfin arg len => cases hphase : s.g.phase <;> simp [stateChecks, argCause, hphase]
    | pupd arg len | pfin arg len => simp [stateChecks, argCause]
    | _ => rfl

end Sys2Proof.Machine
end

section
/-! PROOFS. Reset and the first command (`70_reset_and_hazards.md` R340, R341): whether a well-formed command faults is whether
its context is ready, and after reset no context is. -/

namespace Sys2Proof.Machine

/-- A step on a well-formed command with its payload there faults exactly when the command's context is not ready. -/
theorem step_faults_iff_not_ready {s : State} {i : Instr} {rest : List Word} (hf : s.fault = false)
    (hc : s.cmd = encode i :: rest) (hwf : i.wf = true) (hdin : i.len.toNat ≤ s.din.length) :
    ∃ t, step s = .next t ∧ (t.fault = true ↔ s.ready i = false) := by
  have hstep : step s = exec i s := step_exec hf hc (decode_encode i)
  cases hcheck : commandFault i s with
  | some c =>
    have hready : s.ready i ≠ true := fun h => by simp [(commandFault_none_iff i s).mpr ⟨hwf, h⟩] at hcheck
    exact ⟨_, hstep.trans (exec_fault hcheck), by simp [hready]⟩
  | none =>
    obtain ⟨-, hready⟩ := (commandFault_none_iff i s).mp hcheck
    exact ⟨_, hstep.trans (exec_effects hcheck hdin), by simp [hf, hready]⟩

/-- Settles O50: reset is the zero state, the only word on CMD is the command's, and the five commands of R341 are those that
are not ready with both contexts zero. -/
theorem resetThenFirstCommand : Obligations.ResetThenFirstCommand := by
  refine fun s cap => ⟨rfl, fun i D hwf hdin => ?_⟩
  obtain ⟨t, hstep, hfault⟩ := step_faults_iff_not_ready
    (s := ((s.resetInput cap).pushCmd (encode i)).pushDin D) (rest := []) rfl rfl hwf hdin
  refine ⟨t, hstep, hfault.trans ?_⟩
  cases i with
  | pupd | pfin | gaad | gciph | gfin => exact iff_of_true rfl trivial
  | _ => exact iff_of_false nofun id

end Sys2Proof.Machine
end

section
/-! PROOFS. The encoding of command words as a whole (`30_encoding.md` sections 1, 2 and 4): decoding undoes encoding, where the
fields stand, and that every word is a command's or is rejected by name. -/

namespace Sys2Proof

/-- Settles O1: the decoder reads the three fields back, and the table's 32 bits are the word. -/
theorem decodeEncodeRoundTrip : Obligations.DecodeEncodeRoundTrip := by
  intro i
  have hword : BitVec.ofNat 32 ((encode i).toNat % 2 ^ 32) = encode i := by
    rw [BitVec.toNat_mod_cancel, BitVec.ofNat_toNat, BitVec.setWidth_eq]
  exact ⟨decode_encode i, by rw [decodeTableWord, hword, decode_encode]⟩

/-- The mask of the rows keeps `OPC` alone (R94). -/
theorem and_rowMask (w : Word) : w &&& 0xFF000000#32 = (opcOf w).setWidth 32 <<< 24 := by
  have hmask : 0xFF000000#32 = BitVec.allOnes 32 <<< 24 := rfl
  apply BitVec.eq_of_getLsbD_eq
  intro k hk
  rw [hmask, BitVec.getLsbD_and, BitVec.getLsbD_shiftLeft, BitVec.getLsbD_allOnes, BitVec.getLsbD_shiftLeft]
  by_cases hlow : k < 24
  · simp [hlow]
  · simp [opcOf, hk, hlow, Bool.and_comm, show k - 24 < 8 by omega, show 24 + (k - 24) = k by omega]

/-- Settles O2: the number, the row's match and the fields of the formula of R101. -/
theorem encodingFormula : Obligations.EncodingFormula := fun i =>
  ⟨encodeFields_toNat _ _ _, rfl, (and_rowMask (encode i)).trans (by rw [opcOf_encode]),
    opcOf_encode i, argOf_encode i, lenOf_encode i⟩

/-- The four ranges of `OPC` that select no row (R98). -/
def Unassigned (opc : BitVec 8) : Prop :=
  (0x02 ≤ opc.toNat ∧ opc.toNat ≤ 0x0F) ∨ (0x14 ≤ opc.toNat ∧ opc.toNat ≤ 0x1F)
    ∨ (0x23 ≤ opc.toNat ∧ opc.toNat ≤ 0x2F) ∨ 0x36 ≤ opc.toNat

/-- The decoder selects a command for every `OPC` outside the four ranges and names every `OPC` in them. -/
theorem decodeFields_cases (opc arg : BitVec 8) (len : BitVec 16) :
    (¬ Unassigned opc ∧ ∃ i, decodeFields opc arg len = .ok i)
      ∨ (Unassigned opc ∧ decodeFields opc arg len = .error (.unassignedOpcode opc)) := by
  unfold decodeFields
  split
  case h_16 =>
    refine .inr ⟨?_, rfl⟩
    simp only [imp_false, ← BitVec.toNat_inj, BitVec.reduceToNat] at *
    unfold Unassigned
    omega
  all_goals exact .inl ⟨by unfold Unassigned; decide, _, rfl⟩

/-- Settles O3: a decoded word is its command's encoding, and the ranges decide which words are decoded. -/
theorem everyWordAccountedFor : Obligations.EveryWordAccountedFor := by
  refine fun w => ⟨fun i => encode_of_decode, ?_⟩
  rcases decodeFields_cases (opcOf w) (argOf w) (lenOf w) with ⟨hassigned, i, hok⟩ | ⟨hunassigned, herror⟩
  · exact ⟨iff_of_false (fun h => nomatch hok.symm.trans h) hassigned, .inl ⟨i, hok⟩⟩
  · exact ⟨iff_of_true herror hunassigned, .inr herror⟩

/-- Settles O4, by evaluating the decoder on the five words. -/
theorem specWordsDecode : Obligations.SpecWordsDecode := ⟨rfl, rfl, rfl, rfl, rfl⟩

end Sys2Proof
end

section
/-! PROOFS. Limb addition, the minimal reduction and one absorb (`42_poly1305.md` R173, R177 to R180), with the figures of the
bound analysis. -/

namespace Sys2Proof.Machine

/-- Settles O25: addition on the numbers, and a carry of at most 1 between two limbs. -/
theorem limbAdditionValue : Obligations.LimbAdditionValue := by
  refine fun x c => ⟨val_pAdd x c, val_pAdd_of_lt, fun k _ => ?_⟩
  have hsum : ∀ t ∈ (List.range k).map (fun i => limb x i + limb c i), t ≤ 510 := by
    intro t ht
    obtain ⟨i, -, rfl⟩ := List.mem_map.mp ht
    exact Nat.add_le_add (limb_le x i) (limb_le c i)
  have hcarry := carryPass_carry_le (B := 510) (M := 1) (by decide) (Nat.zero_le 1) hsum
  have hx := limb_le x k
  have hc := limb_le c k
  omega

/-! ### The minimal reduction -/

/-- A running carry that limbs up to `B` cannot push past `M`, with the limb it is added to (R178). -/
theorem runningCarry_le {B M : Nat} (hB : (M + B) / 256 ≤ M) {t : List Nat} (h : ∀ u ∈ t, u ≤ B) (k : Nat) :
    (carryPass 0 (t.take k)).2 + t.getD k 0 ≤ M + B := by
  refine Nat.add_le_add (carryPass_carry_le hB (Nat.zero_le M) fun u hu => h u (List.mem_of_mem_take hu)) ?_
  rw [List.getD_eq_getElem?_getD]
  cases hk : t[k]? with
  | none => exact Nat.zero_le B
  | some u => exact h u (List.mem_of_getElem? hk)

theorem lenum_take_sixteen (x : Limbs) : lenum (x.toList.take 16) = val x % 2 ^ 128 := by
  have hsplit := lenum_append (x.toList.take 16) (x.toList.drop 16)
  have hlow := lenum_lt (x.toList.take 16)
  have hlen : (x.toList.take 16).length = 16 := by simp
  rw [List.take_append_drop, hlen, ← val] at hsplit
  rw [hlen] at hlow
  omega

/-- The reduced value when the bits that come back are few: limb 16 reaches 4 only by a carry out of the low limbs (R178). -/
theorem reduced_bounds {x : Limbs} {V Q : Nat} (hx : val x = V % 2 ^ 128 + 5 * (Q / 4) + 2 ^ 128 * (Q % 4))
    (hQ : 5 * (Q / 4) < 2 ^ 20) :
    limb x 16 ≤ 4 ∧ val x < 2 ^ 130 + 2 ^ 20 ∧ (limb x 16 = 4 → lenum (x.toList.take 16) < 2 ^ 20) := by
  rw [limb_sixteen, lenum_take_sixteen]
  omega

/-- Settles O28: the value by the two loops, the carries by the largest limbs, and the fixed point by evaluation. -/
theorem minimalReductionValue : Obligations.MinimalReductionValue := by
  refine ⟨fun t ht hlimbs => ?_, limbsOf ([0xFE#8] ++ List.replicate 15 0xFF#8 ++ [0x03#8]), rfl, by decide⟩
  have hle : ∀ u ∈ t, u ≤ 536870911 := fun u hu => Nat.le_of_lt_succ (hlimbs u hu)
  have hcarry := runningCarry_le (M := 2105376) (by decide) hle
  obtain ⟨-, hQ⟩ := firstLoop_value ht
  have hQ32 : valOf t / 2 ^ 128 ≤ 538976287 := hQ ▸ hcarry 16
  have hval := val_pMinReduce ht (by omega)
  refine ⟨hval, val_pMinReduce_mod ht (by omega), reduced_bounds hval, hQ, fun k _ => (hcarry k).trans_lt (by decide),
    fun hsmall k _ => ?_, by omega⟩
  exact (runningCarry_le (M := 1305855) (by decide) hsmall k).trans_lt (by decide)

/-! ### One absorb -/

section Context

variable {p : PolyCtx}

/-- The invariant bounds the key limb by limb (`10_state.md` R26). -/
theorem PolyCtx.Inv.key_limbsLe (hp : p.Inv) : LimbsLe p.r maxKey := by
  obtain ⟨-, h16, h15, hlow, -⟩ := hp
  refine limbsLe_maxKey h15 (fun k hk => ?_) h16
  have hmod := hlow k hk
  have hle := limb_le p.r k
  omega

theorem PolyCtx.Inv.val_h_lt (hp : p.Inv) : val p.h < 2 ^ 130 + 2 ^ 20 := by
  obtain ⟨-, -, -, -, -, hval, -⟩ := hp
  exact hval

end Context

/-- Limb 16 of an accumulator within its bound. -/
theorem limb_sixteen_le {h : Limbs} (hh : val h < 2 ^ 130 + 2 ^ 20) : limb h 16 ≤ 4 := by
  rw [limb_sixteen]
  omega

theorem pMulRaw_getD (x y : Limbs) {i : Nat} (hi : i < 17) : (pMulRaw x y).getD i 0 = mulLimb x y i := by
  simp [pMulRaw, List.getD_eq_getElem?_getD, hi]

/-- The carry out of the first loop, by the largest operands (R180). -/
theorem firstLoop_carry_le {x y : Limbs} (hx : limb x 16 ≤ 7) (hy : LimbsLe y maxKey) :
    (carryPass 0 ((pMulRaw x y).take 16)).2 ≤ 3111 := by
  have hmax : valOf ((List.range 16).map (mulLimb maxAcc maxKey)) / 256 ^ 16 ≤ 3111 := by decide
  have hmono : valOf ((List.range 16).map (mulLimb x y)) ≤ valOf ((List.range 16).map (mulLimb maxAcc maxKey)) := by
    rw [valOf_map_range, valOf_map_range]
    refine Finset.sum_le_sum fun i hi => Nat.mul_le_mul_right _ (mulLimb_mono (limbsLe_maxAcc hx) hy ?_)
    exact (Finset.mem_range.mp hi).trans (by decide)
  have htake : (pMulRaw x y).take 16 = (List.range 16).map (mulLimb x y) := rfl
  rw [(carryPass_eq _ _).1, htake, List.length_map, List.length_range, Nat.zero_add]
  exact (Nat.div_le_div_right hmono).trans hmax

/-- Settles O29: the sum loses no carry, and the largest operands bound the product, its carry and what comes back. -/
theorem absorbStep : Obligations.AbsorbStep := by
  intro p c hp hc _ x t h'
  have hh := hp.val_h_lt
  have hr := hp.key_limbsLe
  have hsum : val x = val p.h + val c := val_pAdd_of_lt (by omega)
  have htop : limb x 16 ≤ 7 := by
    rw [limb_sixteen, hsum]
    omega
  obtain ⟨hlt, hmod⟩ := val_pAbsorb hr hh hc
  have hengine : ∀ i < 17, mulLimb maxAcc maxKey i ≤ 212877825 := by decide
  have hsixteen : mulLimb maxAcc maxKey 16 ≤ 730065 := by decide
  refine ⟨hsum, by omega, htop, pMulRaw_le (limbsLe_maxAcc htop) hr hengine, ?_, firstLoop_carry_le htop hr,
    valOf_pMulRaw_div_le htop hr, limb_sixteen_le hlt, hlt, hmod⟩
  rw [pMulRaw_getD _ _ (by decide)]
  exact (mulLimb_mono (limbsLe_maxAcc htop) hr (by decide)).trans hsixteen

end Sys2Proof.Machine
end

section
/-! PROOFS. What the commands of the GHASH engine leave of the context's other registers (`10_state.md` section 4), and the
phase each leaves (`43_ghash.md` R220). -/

namespace Sys2Proof.Machine

/-- GAAD writes `Y`, the buffer and the associated-data count (R223). -/
theorem GhashCtx.addAad_frame (len : BitVec 16) (D : Bytes) (g : GhashCtx) :
    (g.addAad len D).H = g.H ∧ (g.addAad len D).lenCt = g.lenCt ∧ (g.addAad len D).phase = g.phase
      ∧ (g.addAad len D).backend = g.backend := by
  rw [GhashCtx.addAad_eq]
  exact ⟨rfl, rfl, rfl, rfl⟩

/-- GCIPH writes `Y`, the buffer, the ciphertext count and the phase (R224). -/
theorem GhashCtx.addCipher_frame (len : BitVec 16) (D : Bytes) (g : GhashCtx) :
    (g.addCipher len D).H = g.H ∧ (g.addCipher len D).lenAad = g.lenAad ∧ (g.addCipher len D).backend = g.backend
      ∧ (g.addCipher len D).phase = g.enterCipher.phase := by
  obtain ⟨hH, hlen, -, hbackend, -⟩ := g.enterCipher_frame
  rw [GhashCtx.addCipher, GhashCtx.absorb_eq]
  exact ⟨hH, hlen, hbackend, rfl⟩

/-- A live context is in `CIPHER` after the first line of GCIPH (R224). -/
theorem GhashCtx.enterCipher_phase {g : GhashCtx} (h : g.phase ≠ .invalid) : g.enterCipher.phase = .cipher := by
  cases hphase : g.phase with
  | invalid => exact absurd hphase h
  | aad => rw [GhashCtx.enterCipher_of_aad hphase]
  | cipher => rw [GhashCtx.enterCipher_of_cipher hphase]

theorem GhashCtx.addCipher_phase {g : GhashCtx} (h : g.phase ≠ .invalid) (len : BitVec 16) (D : Bytes) :
    (g.addCipher len D).phase = .cipher := by
  obtain ⟨-, -, -, hphase⟩ := g.addCipher_frame len D
  rw [hphase, GhashCtx.enterCipher_phase h]

/-! ### What a check that passed says of the context -/

section Ready

variable {s : State} {arg : BitVec 8} {len : BitVec 16}

theorem active_of_pupd (h : commandFault (.pupd arg len) s = none) : s.p.active = true :=
  ((commandFault_none_iff _ s).mp h).2

theorem phase_of_gaad (h : commandFault (.gaad arg len) s = none) : s.g.phase = .aad :=
  eq_of_beq ((commandFault_none_iff _ s).mp h).2

theorem phase_of_gciph (h : commandFault (.gciph arg len) s = none) : s.g.phase ≠ .invalid :=
  ne_of_beq_false (by simpa [State.ready] using ((commandFault_none_iff _ s).mp h).2)

end Ready

end Sys2Proof.Machine
end

section
/-! PROOFS. The invariants between two commands (`10_state.md` R26, R32, R33, R42): each context's after each command, the fault
record's at fault entry, then the core's at every step. -/

namespace Sys2Proof.Machine

/-- The count a run of the streaming buffer returns fits its five bits (R156). -/
theorem bwa_count_le (buf : Block) {n : Nat} (D : Bytes) (hn : n ≤ 15) :
    (BitVec.ofNat 5 (bwa buf n D).n).toNat ≤ 15 := by
  rw [BitVec.toNat_ofNat]
  exact (Nat.mod_le _ _).trans (bwa_streams buf D hn).n_le

/-! ### The Poly1305 context -/

theorem PolyCtx.zero_inv : PolyCtx.zero.Inv := by decide

/-- The clamp meets the three conditions on the key (R26 (b), (c)). -/
theorem clamp_limbs (K : Block) :
    limb (clamp K) 16 = 0 ∧ (∀ k ∈ [3, 7, 11, 15], limb (clamp K) k ≤ 15)
      ∧ ∀ k ∈ [4, 8, 12], limb (clamp K) k % 4 = 0 := by
  have hle := clamp_limbsLe_maxKey K
  refine ⟨Nat.le_zero.mp (hle 16 (by decide)), fun k hk => ?_, fun k hk => ?_⟩
  · have hmax : ∀ k ∈ [3, 7, 11, 15], k < 17 ∧ limb maxKey k = 15 := by decide
    obtain ⟨hlt, h15⟩ := hmax k hk
    exact h15 ▸ hle k hlt
  · have hmask : ∀ k ∈ [4, 8, 12], k < 16 ∧ (clampMask k).toNat = 0xFC := by decide
    obtain ⟨hlt, hFC⟩ := hmask k hk
    have hlimb : limb (clamp K) k = K[k].toNat &&& 0xFC := by
      rw [← hFC, ← BitVec.toNat_and]
      simp [limb, clamp, hlt, show k < 17 by omega]
    rw [hlimb, show 4 = 2 ^ 2 from rfl, Nat.and_mod_two_pow]
    exact Nat.and_zero _

theorem PolyCtx.init_inv (K : Bytes) : (PolyCtx.init K).Inv := by
  obtain ⟨h16, h15, hlow⟩ := clamp_limbs (blockAt K 0)
  obtain ⟨-, -, -, -, htop, hval, -⟩ := PolyCtx.zero_inv
  exact ⟨Nat.zero_le _, h16, h15, hlow, htop, hval, nofun⟩

/-- Absorbing blocks keeps the accumulator's bound (R180). -/
theorem foldl_pAbsorb_lt {r h : Limbs} (hr : LimbsLe r maxKey) (hh : val h < 2 ^ 130 + 2 ^ 20) (Bs : List Block) :
    val (Bs.foldl (fun h B => pAbsorb r h (fullBlock B)) h) < 2 ^ 130 + 2 ^ 20 := by
  induction Bs generalizing h with
  | nil => exact hh
  | cons B Bs ih =>
    have hB : val (fullBlock B) < 2 ^ 129 := by
      have hbytes := lenum_lt B.toList
      rw [Vector.length_toList] at hbytes
      rw [val_fullBlock]
      omega
    obtain ⟨hlt, -⟩ := val_pAbsorb hr hh hB
    rw [List.foldl_cons]
    exact ih hlt

theorem PolyCtx.Inv.update {p : PolyCtx} (hp : p.Inv) (hactive : p.active = true) (D : Bytes) : (p.update D).Inv := by
  have hr := hp.key_limbsLe
  have hh := hp.val_h_lt
  obtain ⟨hn, h16, h15, hlow, -⟩ := hp
  have hlt := foldl_pAbsorb_lt hr hh (bwa p.buf p.n.toNat D).blocks
  rw [PolyCtx.update_eq]
  exact ⟨bwa_count_le p.buf D hn, h16, h15, hlow, limb_sixteen_le hlt, hlt, fun h => nomatch h.symm.trans hactive⟩

/-- Every command that completes keeps the invariant of `P`. -/
theorem polyAfter_inv {i : Instr} {s : State} (hp : s.p.Inv) (hnone : commandFault i s = none) (D : Bytes) :
    (polyAfter i D s.p).Inv := by
  cases i with
  | wipe arg len =>
    rw [polyAfter]
    split
    · exact PolyCtx.zero_inv
    · exact hp
  | pinit arg len => exact PolyCtx.init_inv D
  | pupd arg len => exact hp.update (active_of_pupd hnone) D
  | pfin arg len => exact PolyCtx.zero_inv
  | _ => exact hp

/-! ### The GHASH context -/

theorem GhashCtx.zero_inv : GhashCtx.zero.Inv := ⟨Nat.zero_le _, fun _ => rfl, nofun⟩

theorem GhashCtx.init_inv (Hk : Block) (cap : Bool) : (GhashCtx.init Hk cap).Inv := ⟨Nat.zero_le _, nofun, fun _ => rfl⟩

/-- A live context keeps its invariant while its count fits and AAD has seen no ciphertext (R33). -/
theorem GhashCtx.inv_of_live {g : GhashCtx} (hn : g.n.toNat ≤ 15) (hlive : g.phase ≠ .invalid)
    (haad : g.phase = .aad → g.lenCt = 0#64) : g.Inv := ⟨hn, fun h => absurd h hlive, haad⟩

theorem GhashCtx.Inv.addAad {g : GhashCtx} (hg : g.Inv) (hphase : g.phase = .aad) (len : BitVec 16) (D : Bytes) :
    (g.addAad len D).Inv := by
  obtain ⟨hn, -, haad⟩ := hg
  rw [GhashCtx.addAad_eq]
  exact GhashCtx.inv_of_live (bwa_count_le g.buf D hn) (ne_of_eq_of_ne hphase (by decide)) haad

/-- The flush empties the buffer or finds it empty (R219). -/
theorem GhashCtx.pad_count (g : GhashCtx) : g.pad.n = 0#5 := by
  by_cases hn : g.n = 0#5
  · rw [GhashCtx.pad_of_empty hn, hn]
  · rw [GhashCtx.pad_of_pending hn]

theorem GhashCtx.Inv.enterCipher_count {g : GhashCtx} (hg : g.Inv) : g.enterCipher.n.toNat ≤ 15 := by
  obtain ⟨hn, -, -⟩ := hg
  rw [GhashCtx.enterCipher]
  split
  · rw [GhashCtx.pad_count]
    decide
  · exact hn

theorem GhashCtx.Inv.addCipher {g : GhashCtx} (hg : g.Inv) (hlive : g.phase ≠ .invalid) (len : BitVec 16) (D : Bytes) :
    (g.addCipher len D).Inv := by
  have hphase := GhashCtx.addCipher_phase hlive len D
  refine GhashCtx.inv_of_live ?_ (by simp [hphase]) (by simp [hphase])
  rw [GhashCtx.addCipher, GhashCtx.absorb_eq]
  exact bwa_count_le _ D hg.enterCipher_count

/-- Every command that completes keeps the invariant of `G`. -/
theorem ghashAfter_inv {i : Instr} {s : State} (hg : s.g.Inv) (hnone : commandFault i s = none) (D : Bytes) :
    (ghashAfter i D s.capClmul s.g).Inv := by
  cases i with
  | wipe arg len =>
    rw [ghashAfter]
    split
    · exact GhashCtx.zero_inv
    · exact hg
  | ginit arg len => exact GhashCtx.init_inv _ _
  | gaad arg len => exact hg.addAad (phase_of_gaad hnone) len D
  | gciph arg len => exact hg.addCipher (phase_of_gciph hnone) len D
  | gfin arg len => exact GhashCtx.zero_inv
  | _ => exact hg

/-- Every command that completes leaves a live context on the strap's backend (R32). -/
theorem ghashAfter_backend {i : Instr} {s : State} (hb : s.BackendInv) (hnone : commandFault i s = none) (D : Bytes)
    (hlive : (ghashAfter i D s.capClmul s.g).phase ≠ .invalid) :
    (ghashAfter i D s.capClmul s.g).backend = s.capClmul := by
  cases i with
  | wipe arg len =>
    rw [ghashAfter] at hlive ⊢
    split_ifs at hlive ⊢
    · exact absurd rfl hlive
    · exact hb hlive
  | ginit arg len => rfl
  | gaad arg len =>
    obtain ⟨-, -, -, hbackend⟩ := s.g.addAad_frame len D
    exact hbackend.trans (hb (by simp [phase_of_gaad hnone]))
  | gciph arg len =>
    obtain ⟨-, -, hbackend, -⟩ := s.g.addCipher_frame len D
    exact hbackend.trans (hb (phase_of_gciph hnone))
  | gfin arg len => exact absurd rfl hlive
  | _ => exact hb hlive

/-! ### The core -/

/-- Fault entry leaves a cause 1 to 7 over two wiped contexts, whatever the core held (`60_exceptions.md` R306). -/
theorem takeFault_inv (s : State) (c : FaultCause) (w : Word) : (s.takeFault c w).Inv := by
  obtain ⟨hlo, hhi⟩ := c.code_range
  exact ⟨PolyCtx.zero_inv, GhashCtx.zero_inv, ⟨nofun, fun _ => ⟨hlo, hhi, rfl, rfl⟩⟩, fun h => absurd rfl h⟩

/-- Executing a command on a core with no fault keeps the invariant. -/
theorem exec_inv {i : Instr} {s t : State} (hs : s.Inv) (hf : s.fault = false) (hex : exec i s = .next t) : t.Inv := by
  rcases exec_cases hex with ⟨c, -, rfl⟩ | ⟨-, -, rfl⟩ | ⟨hnone, hdin, -⟩
  · exact takeFault_inv _ _ _
  · exact hs
  · obtain ⟨hp, hg, ⟨hclear, -⟩, hb⟩ := hs
    rw [exec_effects hnone hdin] at hex
    cases hex
    exact ⟨polyAfter_inv hp hnone _, ghashAfter_inv hg hnone _, ⟨hclear, fun h => nomatch hf.symm.trans h⟩,
      ghashAfter_backend hb hnone _⟩

/-- Settles O51: a step is nothing, fault entry or a command, and each keeps the invariant. -/
theorem stepKeepsInvariant : Obligations.StepKeepsInvariant := by
  intro s t hs hstep
  obtain ⟨hf, ⟨-, rfl⟩ | ⟨w, rest, e, -, -, rfl⟩ | ⟨w, rest, i, -, -, hex⟩⟩ := step_cases hstep
  · exact hs
  · exact takeFault_inv _ _ _
  · exact exec_inv hs hf hex

theorem resetWith_inv (cap : Bool) : (State.resetWith cap).Inv :=
  ⟨PolyCtx.zero_inv, GhashCtx.zero_inv, ⟨fun _ => ⟨rfl, rfl⟩, nofun⟩, fun h => absurd rfl h⟩

/-- Settles O52: both strap levels, and so the model's own. -/
theorem resetHasInvariant : Obligations.ResetHasInvariant := ⟨fun _ => resetWith_inv, resetWith_inv _⟩

end Sys2Proof.Machine
end

section
/-! PROOFS. The step over the channels: what a step runs (`30_encoding.md` R95), that no command stops the core, and that the
host may push behind a command (`20_memory.md` R71, `70_reset_and_hazards.md` R345). -/

namespace Sys2Proof.Machine

/-- Settles O5: a decoded word is its command's encoding, and the step executes that command. -/
theorem stepRunsDecoded : Obligations.StepRunsDecoded :=
  fun _ _ _ _ hf hc hd => ⟨step_exec hf hc hd, encode_of_decode hd⟩

/-- Every command answers a next state, whatever the state. -/
theorem exec_next (i : Instr) (s : State) : ∃ t, exec i s = .next t := by
  rw [exec_eq_issue]
  exact issue_next _ _ _ _ _

/-- Settles O6: an enabled step answers a next state, a core that waits answers its own, and a halted one stops. -/
theorem onlyHaltedCoreStops : Obligations.OnlyHaltedCoreStops := by
  refine fun s => ⟨fun i => exec_next i s, step_halted, step_not_enabled, fun hf => ?_⟩
  cases he : s.enabled with
  | false => exact ⟨s, step_not_enabled hf he⟩
  | true =>
    obtain ⟨t, _, hstep, -⟩ := step_enabled he
    exact ⟨t, hstep⟩

/-- The state a command that completes leaves. -/
def completed (i : Instr) (s : State) : State :=
  { s with
    p := polyAfter i (s.din.take i.len.toNat) s.p
    g := ghashAfter i (s.din.take i.len.toNat) s.capClmul s.g
    cmd := s.cmd.tail
    din := s.din.drop i.len.toNat
    dout := s.dout ++ outOf i (s.din.take i.len.toNat) (s.popCmd.dropDin i.len.toNat)
    rsp := s.rsp ++ [response i.opc (codeOf i (s.din.take i.len.toNat))] }

theorem exec_completed {i : Instr} {s : State} (hnone : commandFault i s = none) (hdin : i.len.toNat ≤ s.din.length) :
    exec i s = .next (completed i s) := exec_effects hnone hdin

section Pushes

variable {s : State} {w : Word} {rest : List Word}

theorem popCmd_pushCmd (hc : s.cmd = w :: rest) (v : Word) : (s.pushCmd v).popCmd = s.popCmd.pushCmd v := by
  simp [State.pushCmd, State.popCmd, hc]

/-- A command leaves a word pushed behind it on CMD. -/
theorem completed_pushCmd (hc : s.cmd = w :: rest) (i : Instr) (v : Word) :
    completed i (s.pushCmd v) = (completed i s).pushCmd v := by
  have hout := outOf_congr i (s.din.take i.len.toNat) (s := s.popCmd.dropDin i.len.toNat)
    (t := (s.pushCmd v).popCmd.dropDin i.len.toNat) rfl rfl rfl
  have htail : (s.cmd ++ [v]).tail = s.cmd.tail ++ [v] := by simp [hc]
  rw [completed, State.pushCmd_cmd, State.pushCmd_din, htail, hout]
  rfl

/-- A command runs on the same payload and leaves the bytes pushed behind it. -/
theorem completed_pushDin {i : Instr} (hdin : i.len.toNat ≤ s.din.length) (B : Bytes) :
    completed i (s.pushDin B) = (completed i s).pushDin B := by
  have htake : (s.din ++ B).take i.len.toNat = s.din.take i.len.toNat := List.take_append_of_le_length hdin
  have hdrop : (s.din ++ B).drop i.len.toNat = s.din.drop i.len.toNat ++ B := List.drop_append_of_le_length hdin
  have hout := outOf_congr i (s.din.take i.len.toNat) (s := s.popCmd.dropDin i.len.toNat)
    (t := (s.pushDin B).popCmd.dropDin i.len.toNat) rfl rfl rfl
  rw [completed, State.pushDin_din, htake, hdrop, hout]
  rfl

end Pushes

/-- Settles O10: a word that faults reads no byte and no word behind it, and a command reads its `LEN` bytes alone. -/
theorem pipelinedPushesCommute : Obligations.PipelinedPushesCommute := by
  intro s t v B he hstep
  obtain ⟨hf, w, rest, hc, hrun⟩ := (enabled_iff s).mp he
  have hc' : (s.pushCmd v).cmd = w :: (rest ++ [v]) := by simp [hc]
  cases hw : wordFault w s with
  | some c =>
    rw [step_fault hf hc hw] at hstep
    cases hstep
    have hcmd := step_fault (s := s.pushCmd v) hf hc' ((wordFault_congr w rfl rfl).trans hw)
    exact ⟨by rw [hcmd, popCmd_pushCmd hc]; rfl,
      step_fault (s := s.pushDin B) hf hc ((wordFault_congr w rfl rfl).trans hw)⟩
  | none =>
    have hlen := hrun.resolve_left (not_not_intro hw)
    obtain ⟨i, hd, -⟩ := step_run hf hc hw hlen
    rw [wordFault_command hd] at hw
    rw [← len_of_decode hd] at hlen
    rw [step_exec hf hc hd, exec_completed hw hlen] at hstep
    cases hstep
    have hcheck (s' : State) (hp : s'.p = s.p) (hg : s'.g = s.g) : commandFault i s' = none :=
      (commandFault_congr i (congrArg _ hp) (congrArg _ hg)).trans hw
    rw [step_exec (s := s.pushCmd v) hf hc' hd, step_exec (s := s.pushDin B) hf hc hd,
      exec_completed (hcheck (s.pushCmd v) rfl rfl) hlen,
      exec_completed (hcheck (s.pushDin B) rfl rfl) (by simp; omega), completed_pushCmd hc, completed_pushDin hlen]
    exact ⟨rfl, rfl⟩

end Sys2Proof.Machine
end

section
/-! PROOFS. What each command may write (`10_state.md` R34, R40, R42), what depends on which engine (`60_exceptions.md` R313),
and how the phase moves (`43_ghash.md` R220, R221). -/

namespace Sys2Proof.Machine

/-- Executing a command never moves the strap. -/
theorem exec_capClmul {i : Instr} {s t : State} (hex : exec i s = .next t) : t.capClmul = s.capClmul := by
  rcases exec_cases hex with ⟨c, -, rfl⟩ | ⟨-, -, rfl⟩ | ⟨hnone, hdin, -⟩
  · rfl
  · rfl
  · rw [exec_effects hnone hdin] at hex
    cases hex
    rfl

/-- Settles O49: each case of a step keeps the strap, the host's accesses move channels alone, and reset is the zero state. -/
theorem onlyResetLeavesFaultOrMovesStrap : Obligations.OnlyResetLeavesFaultOrMovesStrap := by
  refine fun s => ⟨fun t hstep => ?_, fun _ _ => ⟨rfl, rfl, rfl, rfl⟩, fun b t hpop => ?_, fun w t hpop => ?_,
    fun _ => ⟨rfl, rfl⟩⟩
  · obtain ⟨hf, ⟨-, rfl⟩ | ⟨w, rest, e, -, -, rfl⟩ | ⟨w, rest, i, -, -, hex⟩⟩ := step_cases hstep
    · exact ⟨hf, rfl⟩
    · exact ⟨hf, rfl⟩
    · exact ⟨hf, exec_capClmul hex⟩
  · rw [State.popDout_eq hpop]
    exact ⟨rfl, rfl⟩
  · rw [State.popRsp_eq hpop]
    exact ⟨rfl, rfl⟩

/-- The registers of the two contexts that a completed command leaves alone, its column of the access table (R34). -/
def WritesWithin (i : Instr) (p p' : PolyCtx) (g g' : GhashCtx) : Prop :=
  match i with
  | .pinit _ _ => g' = g
  | .pupd _ _ => g' = g ∧ p'.r = p.r ∧ p'.s = p.s ∧ p'.active = p.active
  | .pfin _ _ => g' = g
  | .ginit _ _ => p' = p
  | .gaad _ _ => p' = p ∧ g'.H = g.H ∧ g'.lenCt = g.lenCt ∧ g'.phase = g.phase ∧ g'.backend = g.backend
  | .gciph _ _ => p' = p ∧ g'.H = g.H ∧ g'.lenAad = g.lenAad ∧ g'.backend = g.backend
  | .gfin _ _ => p' = p
  | .wipe arg _ => (arg.getLsbD 0 = false → p' = p) ∧ (arg.getLsbD 1 = false → g' = g)
  | _ => p' = p ∧ g' = g

theorem WritesWithin.refl (i : Instr) (p : PolyCtx) (g : GhashCtx) : WritesWithin i p p g g := by
  cases i <;> simp [WritesWithin]

theorem writesWithin_after (i : Instr) (D : Bytes) (cap : Bool) (p : PolyCtx) (g : GhashCtx) :
    WritesWithin i p (polyAfter i D p) g (ghashAfter i D cap g) := by
  cases i with
  | wipe arg len => exact ⟨fun h => if_neg (Bool.eq_false_iff.mp h), fun h => if_neg (Bool.eq_false_iff.mp h)⟩
  | pupd arg len =>
    rw [polyAfter, PolyCtx.update_eq]
    exact ⟨rfl, rfl, rfl, rfl⟩
  | gaad arg len => exact ⟨rfl, g.addAad_frame len D⟩
  | gciph arg len =>
    obtain ⟨hH, hlen, hbackend, -⟩ := g.addCipher_frame len D
    exact ⟨rfl, hH, hlen, hbackend⟩
  | pinit | pfin | ginit | gfin => exact rfl
  | _ => exact ⟨rfl, rfl⟩

/-- Settles O53: a command that holds writes nothing, and one that completes writes by its effects. -/
theorem commandFrames : Obligations.CommandFrames := by
  intro i s t hex hnone
  have hframe : t.capClmul = s.capClmul ∧ t.fault = s.fault ∧ t.fcode = s.fcode ∧ t.fcmd = s.fcmd
      ∧ WritesWithin i s.p t.p s.g t.g ∧ (∃ B, t.dout = s.dout ++ B) ∧ ∃ R, t.rsp = s.rsp ++ R := by
    rcases Nat.lt_or_ge s.din.length i.len.toNat with hshort | hdin
    · rw [exec_hold hnone hshort] at hex
      cases hex
      exact ⟨rfl, rfl, rfl, rfl, WritesWithin.refl i _ _, ⟨[], (List.append_nil _).symm⟩, [], (List.append_nil _).symm⟩
    · rw [exec_effects hnone hdin] at hex
      cases hex
      exact ⟨rfl, rfl, rfl, rfl, writesWithin_after i _ _ _ _, ⟨_, rfl⟩, _, rfl⟩
  cases i <;> exact hframe

/-! ### The two engines -/

/-- A command that does not fault in either of two states, and whose effects carry the change of state through, runs the same
way in both. -/
theorem exec_carries {i : Instr} {s t : State} {F : State → State} (hnone : commandFault i s = none)
    (hcheck : commandFault i (F s) = none) (hdin : (F s).din.length = s.din.length)
    (hF : completed i (F s) = F (completed i s)) (hex : exec i s = .next t) : exec i (F s) = .next (F t) := by
  rcases Nat.lt_or_ge s.din.length i.len.toNat with hshort | hlong
  · rw [exec_hold hnone hshort] at hex
    cases hex
    exact exec_hold hcheck (hdin ▸ hshort)
  · rw [exec_completed hnone hlong] at hex
    cases hex
    rw [exec_completed hcheck (hdin ▸ hlong), hF]

/-- Settles O54: the checks, effects and results of each command read and write its own engine's context. -/
theorem enginesIndependent : Obligations.EnginesIndependent := by
  refine fun s p g arg len => ⟨fun i hi hnone t hex => ?_, fun i hi hnone t hex => ?_⟩
  · simp only [List.mem_cons, List.not_mem_nil, or_false] at hi
    rcases hi with rfl | rfl | rfl <;> exact exec_carries (F := State.setG g) hnone hnone rfl rfl hex
  · simp only [List.mem_cons, List.not_mem_nil, or_false] at hi
    rcases hi with rfl | rfl | rfl | rfl <;> exact exec_carries (F := State.setP p) hnone hnone rfl rfl hex

/-! ### The phase -/

/-- The phase a completed command leaves (R220). -/
def phaseAfter (i : Instr) (ph : Phase) : Phase :=
  match i with
  | .ginit _ _ => .aad
  | .gaad _ _ => .aad
  | .gciph _ _ => .cipher
  | .gfin _ _ => .invalid
  | .wipe arg _ => if arg.getLsbD 1 then .invalid else ph
  | _ => ph

theorem ghashAfter_phase {i : Instr} {s : State} (hnone : commandFault i s = none) (D : Bytes) :
    (ghashAfter i D s.capClmul s.g).phase = phaseAfter i s.g.phase := by
  cases i with
  | wipe arg len => exact apply_ite GhashCtx.phase _ _ _
  | gaad arg len =>
    obtain ⟨-, -, hphase, -⟩ := s.g.addAad_frame len D
    exact hphase.trans (phase_of_gaad hnone)
  | gciph arg len => exact GhashCtx.addCipher_phase (phase_of_gciph hnone) len D
  | _ => rfl

/-- Settles O38: fault entry wipes `G`, a completed command leaves its entry's phase, and the phase tests fault in order. -/
theorem phaseTable : Obligations.PhaseTable := by
  refine fun i s t hex => ⟨fun hfault => ?_, fun hnone hdin => ?_, fun len => ⟨fun hphase => ⟨?_, ?_, ?_⟩, fun hphase => ?_⟩,
    fun _ => rfl⟩
  · obtain ⟨c, hc⟩ := Option.ne_none_iff_exists'.mp hfault
    rw [exec_fault hc] at hex
    cases hex
    rfl
  · rw [exec_effects hnone hdin] at hex
    cases hex
    have hphase := ghashAfter_phase hnone (s.din.take i.len.toNat)
    cases i <;> exact hphase
  · exact exec_fault (by simp [commandFault, gaadCheck, argUnused, hphase])
  · exact exec_fault (by simp [commandFault, gciphCheck, argUnused, hphase])
  · exact exec_fault (by simp [commandFault, gfinCheck, argUnused, lenIs, hphase])
  · exact exec_fault (by simp [commandFault, gaadCheck, argUnused, hphase])

/-- What a step can make of `G`: nothing, a wiped context, or what a command that completes makes of it. -/
theorem step_ghash {s t : State} (hstep : step s = .next t) :
    t.g = s.g ∨ t.g = GhashCtx.zero ∨ ∃ w rest i, s.cmd = w :: rest ∧ opcOf w = i.opc ∧ commandFault i s = none
      ∧ t.g = ghashAfter i (s.din.take i.len.toNat) s.capClmul s.g := by
  obtain ⟨-, ⟨-, rfl⟩ | ⟨w, rest, e, -, -, rfl⟩ | ⟨w, rest, i, hc, hd, hex⟩⟩ := step_cases hstep
  · exact .inl rfl
  · exact .inr (.inl rfl)
  · rcases exec_cases hex with ⟨c, -, rfl⟩ | ⟨-, -, rfl⟩ | ⟨hnone, hdin, -⟩
    · exact .inr (.inl rfl)
    · exact .inl rfl
    · obtain ⟨hopc, -, -⟩ := fields_of_decode hd
      rw [exec_effects hnone hdin] at hex
      cases hex
      exact .inr (.inr ⟨w, rest, i, hc, hopc.symm, hnone, rfl⟩)

/-- The phase a completed command leaves is another one by GCIPH out of `AAD`, by GINIT, or as `INVALID` (R221). -/
theorem phaseAfter_moves {i : Instr} {s : State} (hnone : commandFault i s = none)
    (hmove : phaseAfter i s.g.phase ≠ s.g.phase) :
    (s.g.phase = .aad ∧ phaseAfter i s.g.phase = .cipher ∧ i.opc = 0x32#8) ∨ phaseAfter i s.g.phase = .invalid
      ∨ (phaseAfter i s.g.phase = .aad ∧ i.opc = 0x30#8) := by
  cases i with
  | ginit arg len => exact .inr (.inr ⟨rfl, rfl⟩)
  | gaad arg len => exact absurd (phase_of_gaad hnone).symm hmove
  | gciph arg len =>
    have hlive := phase_of_gciph hnone
    cases hphase : s.g.phase with
    | invalid => exact absurd hphase hlive
    | aad => exact .inl ⟨rfl, rfl, rfl⟩
    | cipher => exact absurd hphase.symm hmove
  | gfin arg len => exact .inr (.inl rfl)
  | wipe arg len =>
    have hwiped : arg.getLsbD 1 = true := by
      by_contra h
      exact hmove (if_neg h)
    exact .inr (.inl (if_pos hwiped))
  | _ => exact absurd rfl hmove

/-- A completed command that leaves a live context where there was none is a GINIT (R221). -/
theorem ghashAfter_of_invalid {i : Instr} {s : State} (hnone : commandFault i s = none) (hphase : s.g.phase = .invalid)
    (D : Bytes) (hlive : (ghashAfter i D s.capClmul s.g).phase ≠ .invalid) :
    ghashAfter i D s.capClmul s.g = GhashCtx.init (ghashAfter i D s.capClmul s.g).H s.capClmul := by
  rw [ghashAfter_phase hnone] at hlive
  cases i with
  | ginit arg len => rfl
  | gaad arg len => exact absurd (hphase.symm.trans (phase_of_gaad hnone)) (by decide)
  | gciph arg len => exact absurd hphase (phase_of_gciph hnone)
  | gfin arg len => exact absurd rfl hlive
  | wipe arg len => simp [phaseAfter, hphase] at hlive
  | _ => exact absurd hphase hlive

/-- Settles O39: by what a step can make of `G`, and the first GCIPH by the phase table. -/
theorem phaseMonotonic : Obligations.PhaseMonotonic := by
  refine fun s t hstep => ⟨fun hmove => ?_, fun hphase hlive => ?_, fun len rest hf hphase hc hdin => ?_⟩
  · rcases step_ghash hstep with hsame | hzero | ⟨w, rest, i, hc, hopc, hnone, hg⟩
    · exact absurd (congrArg _ hsame) hmove
    · exact .inr (.inl (congrArg _ hzero))
    · rw [hg, ghashAfter_phase hnone] at hmove ⊢
      rcases phaseAfter_moves hnone hmove with ⟨haad, hcipher, h32⟩ | hinvalid | ⟨haad, h30⟩
      · exact .inl ⟨haad, hcipher, w, rest, hc, hopc.trans h32⟩
      · exact .inr (.inl hinvalid)
      · exact .inr (.inr ⟨haad, w, rest, hc, hopc.trans h30⟩)
  · rcases step_ghash hstep with hsame | hzero | ⟨w, rest, i, hc, hopc, hnone, hg⟩
    · exact absurd (hsame ▸ hphase) hlive
    · exact absurd (congrArg _ hzero) hlive
    · rw [hg] at hlive ⊢
      exact ghashAfter_of_invalid hnone hphase _ hlive
  · have hnone : commandFault (.gciph 0#8 len) s = none := by simp [commandFault, gciphCheck, argUnused, hphase]
    rw [step_exec hf hc (decode_encode _), exec_effects hnone hdin] at hstep
    cases hstep
    exact ghashAfter_phase hnone _

end Sys2Proof.Machine
end

section
/-! PROOFS. The buffer bytes a payload leaves alone (`41_blockwise.md` R153, R157). -/

namespace Sys2Proof.Machine

/-- A byte before or behind the bytes written keeps its value. -/
theorem overwrite_getElem_of_outside (buf : Block) {n : Nat} {xs : Bytes} (j : Fin 16)
    (h : j.val < n ∨ n + xs.length ≤ j.val) : (overwrite buf n xs)[j] = buf[j] := by
  simp only [overwrite, Fin.getElem_fin, Vector.getElem_ofFn]
  exact if_neg (by omega)

/-- What a completed top-up writes (R154). -/
theorem overwrite_getElem_of_fills (buf : Block) {n : Nat} {D : Bytes} (hfills : 16 ≤ n + D.length) (j : Fin 16) :
    (overwrite buf n (D.take (16 - n)))[j] = if n ≤ j.val then D.getD (j.val - n) 0#8 else buf[j] := by
  have hj := j.isLt
  have htop : (D.take (16 - n)).length = 16 - n := by
    rw [List.length_take]
    omega
  split_ifs with hge
  · simp only [overwrite, Fin.getElem_fin, Vector.getElem_ofFn]
    rw [if_pos (by omega), List.getD_eq_getElem?_getD, List.getD_eq_getElem?_getD, List.getElem?_take_of_lt (by omega)]
  · exact overwrite_getElem_of_outside buf j (.inl (Nat.not_le.mp hge))

/-- Settles O23: an empty buffer and a payload that fits write below the returned count, and a payload that fills the buffer
writes the top-up first. -/
theorem bwaStaleBytesKept : Obligations.BwaStaleBytesKept := by
  refine fun buf n D hn => ⟨bwa_nil buf n, fun j hj => ?_⟩
  rcases Nat.eq_zero_or_pos n with rfl | hpos
  · rw [if_neg (by omega)]
    exact overwrite_getElem_of_outside buf j (.inr hj)
  rcases Nat.eq_zero_or_pos D.length with hnil | hD
  · rw [List.length_eq_zero_iff.mp hnil, bwa_nil, if_neg (by simp; omega)]
  rcases Nat.lt_or_ge (n + D.length) 16 with hfits | hfills
  · rw [bwa_of_fits buf hpos hD (by omega)] at hj ⊢
    rw [if_neg (by omega)]
    exact overwrite_getElem_of_outside buf j (.inr hj)
  · rw [bwa_of_fills buf hpos hn hfills] at hj ⊢
    have htop := overwrite_getElem_of_fills buf hfills j
    refine (overwrite_getElem_of_outside _ j (.inr hj)).trans (htop.trans ?_)
    simp only [hpos, hfills, true_and]

end Sys2Proof.Machine
end

section
/-! PROOFS. The commands PUPD and PFIN (`42_poly1305.md` R184, R185), GFIN and GFMUL (`43_ghash.md` R225, R227): the faults of
each in order and its whole next state. -/

namespace Sys2Proof.Machine

/-- Settles O32: `ARG`, then the context, then the whole next state by the buffer and the absorbed blocks. -/
theorem pupdRule : Obligations.PupdRule := by
  intro arg len s
  have hcontext (ha : arg = 0#8) : commandFault (.pupd arg len) s = firstFault [(s.p.active, .fPseq)] :=
    commandFault_rest rfl (argUnused_iff.mpr ha)
  refine ⟨fun ha => ?_, fun ha hactive => ?_, fun ha hactive hdin => ⟨?_, ?_⟩⟩
  · exact raises_of_first rfl (mt argUnused_iff.mp ha)
  · exact raises_of_first (hcontext ha) (by simp [hactive])
  · simp [ha, encode, encodeFields, Instr.opc]
  · have hnone : commandFault (.pupd arg len) s = none := by simp [hcontext ha, hactive]
    exact exec_completes (code := codeOk) hnone hdin (PolyCtx.update_eq _ s.p) rfl (List.append_nil _) rfl
      (show response 0x21#8 codeOk = 0x21000000#32 from rfl)

/-- A seventeenth limb of zero changes nothing. -/
theorem limbsOf_append_zero (B : Block) : limbsOf (B.toList ++ [0#8]) = limbsOf B.toList := by
  apply Vector.ext
  intro j hj
  rcases Nat.lt_or_ge j 16 with hlt | hge
  · simp [limbsOf, List.getD_eq_getElem?_getD, hlt]
  · obtain rfl : j = 16 := by omega
    simp [limbsOf, List.getD_eq_getElem?_getD]

/-- The accumulator PFIN reduces: after the pending block where there is one (R185). -/
theorem PolyCtx.flush_h (p : PolyCtx) :
    p.flush.h = if 0 < p.n.toNat then pAbsorb p.r p.h (shortBlock p.buf p.n.toNat) else p.h :=
  apply_ite PolyCtx.h _ _ _

/-- Settles O33: the two fields, then the context, then the whole next state by the tag and the wipe. -/
theorem pfinRule : Obligations.PfinRule := by
  refine ⟨rfl, fun arg len s => ?_⟩
  have hlength (ha : arg = 0#8) : commandFault (.pfin arg len) s =
      firstFault [(lenIs 0 len, .fLen), (s.p.active, .fPseq)] :=
    commandFault_rest rfl (argUnused_iff.mpr ha)
  have hcontext (ha : arg = 0#8) (hl : len = 0#16) : commandFault (.pfin arg len) s =
      firstFault [(s.p.active, .fPseq)] :=
    commandFault_rest (hlength ha) ((lenIs_iff (by decide)).mpr hl)
  refine ⟨fun ha => ?_, fun ha hl => ?_, fun ha hl hactive => ?_, fun ha hl hactive => ?_⟩
  · exact raises_of_first rfl (mt argUnused_iff.mp ha)
  · exact raises_of_first (hlength ha) (mt (lenIs_iff (by decide)).mp hl)
  · exact raises_of_first (hcontext ha hl) (by simp [hactive])
  · have hnone : commandFault (.pfin arg len) s = none := by simp [hcontext ha hl, hactive]
    subst hl
    rw [← PolyCtx.flush_h, limbsOf_append_zero]
    exact exec_completes (code := codeOk) hnone (Nat.zero_le _) rfl rfl rfl rfl
      (show response 0x22#8 codeOk = 0x22000000#32 from rfl)

@[simp] theorem be64_length (v : BitVec 64) : (be64 v).length = 8 := by simp [be64]

/-- The length block is the two bit counts, modulo `2^64` (R225, R228). -/
theorem GhashCtx.lengthBlock_toList (g : GhashCtx) :
    g.lengthBlock.toList =
      be64 (BitVec.ofNat 64 (8 * g.lenAad.toNat)) ++ be64 (BitVec.ofNat 64 (8 * g.lenCt.toNat)) := by
  have hbits (v : BitVec 64) : 8#64 * v = BitVec.ofNat 64 (8 * v.toNat) := by
    apply BitVec.eq_of_toNat_eq
    simp
  rw [GhashCtx.lengthBlock, blockAt_toList (by simp), slice, List.drop_zero, List.take_of_length_le (by simp), hbits, hbits]

/-- The value GFIN pushes, by the padded context (R225). -/
theorem GhashCtx.value_eq (g : GhashCtx) :
    g.value = (gMul g.backend (xorBlock g.pad.Y g.lengthBlock) g.H).toList := by
  obtain ⟨hH, -, -, -, hbackend⟩ := g.pad_frame
  rw [GhashCtx.value, GhashCtx.block, hH, hbackend]

/-- Settles O43: the two fields, then the phase, then the whole next state by the value and the wipe. -/
theorem gfinRule : Obligations.GfinRule := by
  refine ⟨rfl, fun arg len s => ?_⟩
  have hlength (ha : arg = 0#8) : commandFault (.gfin arg len) s =
      firstFault [(lenIs 0 len, .fLen), (s.g.phase != .invalid, .fGseqInvalid)] :=
    commandFault_rest rfl (argUnused_iff.mpr ha)
  have hphases (ha : arg = 0#8) (hl : len = 0#16) : commandFault (.gfin arg len) s =
      firstFault [(s.g.phase != .invalid, .fGseqInvalid)] :=
    commandFault_rest (hlength ha) ((lenIs_iff (by decide)).mpr hl)
  refine ⟨fun ha => ?_, fun ha hl => ?_, fun ha hl hphase => ?_, fun ha hl hlive => ?_⟩
  · exact raises_of_first rfl (mt argUnused_iff.mp ha)
  · exact raises_of_first (hlength ha) (mt (lenIs_iff (by decide)).mp hl)
  · exact raises_of_first (hphases ha hl) (by simp [hphase])
  · have hnone : commandFault (.gfin arg len) s = none := by simp [hphases ha hl, hlive]
    subst hl
    exact ⟨s.g.lengthBlock, s.g.lengthBlock_toList, exec_completes (code := codeOk) hnone (Nat.zero_le _) rfl rfl
      (congrArg (s.dout ++ ·) s.g.value_eq) rfl (show response 0x33#8 codeOk = 0x33000000#32 from rfl)⟩

/-- `ARG` comes in by an or over the word that has none (`30_encoding.md` R101). -/
theorem encodeFields_eq_or_arg (opc arg : BitVec 8) (len : BitVec 16) :
    encodeFields opc arg len = encodeFields opc 0#8 len ||| (arg.setWidth 32 <<< 16) := by
  rw [encodeFields, encodeFields, BitVec.or_assoc, BitVec.or_comm (arg.setWidth 32 <<< 16), ← BitVec.or_assoc]
  simp

/-- Settles O45: the backend's number, then `LEN`, then the whole next state by the product of the two blocks in DIN. -/
theorem gfmulRule : Obligations.GfmulRule := by
  intro arg len s
  have hbackend (hle : arg.toNat ≤ 1) : argIn 0 1 arg = true := argIn_iff.mpr ⟨Nat.zero_le _, hle⟩
  refine ⟨fun hgt => ?_, fun hle hl => ?_, ?_⟩
  · exact raises_fArg rfl (mt argIn_iff.mp (by omega))
  · exact raises_fLen rfl (hbackend hle) (mt (lenIs_iff (by decide)).mp hl)
  · rintro hle rfl hdin
    have hnone : commandFault (.gfmul arg 32#16) s = none := commandFault_none_of_legal rfl (hbackend hle) rfl
    have hout : outOf (.gfmul arg 32#16) (s.din.take 32) (s.popCmd.dropDin 32) =
        (if arg = 0#8 then gMul0 (blockAt s.din 0) (blockAt s.din 16)
          else gMul1 (blockAt s.din 0) (blockAt s.din 16)).toList := by
      have hnumber : arg = 0#8 ∨ arg = 1#8 := by bv_omega
      rw [outOf, blockAt_take s.din (by decide), blockAt_take s.din (by decide)]
      rcases hnumber with rfl | rfl <;> simp [gMul]
    exact ⟨encodeFields_eq_or_arg 0x35#8 arg 32#16, exec_completes (code := codeOk) hnone hdin rfl rfl
      (congrArg (s.dout ++ ·) hout) rfl (show response 0x35#8 codeOk = 0x35000000#32 from rfl)⟩

end Sys2Proof.Machine
end

section
/-! PROOFS. Bit strings as polynomials over GF(2) (`43_ghash.md` R210): exclusive or is addition, a shift is a multiplication by
a power of `X`, and the bits are the coefficients. -/

namespace Sys2Proof.Machine

open Polynomial

/-- The polynomial whose coefficient of `X ^ i` is bit `i`, for the first `n` bits. -/
noncomputable def bitsPoly (n : Nat) (f : Nat → Bool) : Polynomial (ZMod 2) :=
  ∑ i ∈ Finset.range n, if f i then X ^ i else 0

/-- The polynomial of a word, bit 0 the constant term. -/
noncomputable def polyOf {w : Nat} (v : BitVec w) : Polynomial (ZMod 2) := bitsPoly w v.getLsbD

/-- The polynomial of a block as the bit-serial multiplier holds it, bit 127 the constant term (R213). -/
noncomputable def revPoly (v : BitVec 128) : Polynomial (ZMod 2) := bitsPoly 128 fun i => v.getLsbD (127 - i)

section Bits

variable {n : Nat} {f g : Nat → Bool}

theorem coeff_bitsPoly (n : Nat) (f : Nat → Bool) (i : Nat) :
    (bitsPoly n f).coeff i = if i < n ∧ f i = true then 1 else 0 := by
  have hterm (j : Nat) : (if f j then X ^ j else 0 : Polynomial (ZMod 2)).coeff i =
      if i = j then (if f i then 1 else 0) else 0 := by
    by_cases hij : i = j
    · subst hij
      cases f i <;> simp
    · cases f j <;> simp [coeff_X_pow, hij]
  rw [bitsPoly, finsetSum_coeff, Finset.sum_congr rfl fun j _ => hterm j, Finset.sum_ite_eq, ite_and]
  simp only [Finset.mem_range]

theorem bitsPoly_congr (h : ∀ i < n, f i = g i) : bitsPoly n f = bitsPoly n g :=
  Finset.sum_congr rfl fun i hi => by rw [h i (Finset.mem_range.mp hi)]

theorem bitsPoly_xor (n : Nat) (f g : Nat → Bool) :
    bitsPoly n (fun i => f i ^^ g i) = bitsPoly n f + bitsPoly n g := by
  rw [bitsPoly, bitsPoly, bitsPoly, ← Finset.sum_add_distrib]
  refine Finset.sum_congr rfl fun i _ => ?_
  cases f i <;> cases g i <;> simp [CharTwo.add_self_eq_zero]

theorem bitsPoly_and (n : Nat) (f : Nat → Bool) (b : Bool) :
    bitsPoly n (fun i => f i && b) = if b then bitsPoly n f else 0 := by
  cases b <;> simp [bitsPoly]

/-- Zero bits above change nothing. -/
theorem bitsPoly_of_le {m : Nat} (hmn : m ≤ n) (h : ∀ i, m ≤ i → i < n → f i = false) : bitsPoly n f = bitsPoly m f := by
  rw [bitsPoly, ← Finset.sum_range_add_sum_Ico _ hmn, bitsPoly, add_eq_left]
  refine Finset.sum_eq_zero fun i hi => ?_
  obtain ⟨hlo, hhi⟩ := Finset.mem_Ico.mp hi
  simp [h i hlo hhi]

theorem X_pow_mul_bitsPoly (k n : Nat) (f : Nat → Bool) :
    X ^ k * bitsPoly n f = bitsPoly (n + k) fun i => decide (k ≤ i) && f (i - k) := by
  ext i
  rw [coeff_X_pow_mul', coeff_bitsPoly, coeff_bitsPoly]
  by_cases hk : k ≤ i
  · simp [hk, show i - k < n ↔ i < n + k by omega]
  · simp [hk]

theorem degree_bitsPoly_lt (n : Nat) (f : Nat → Bool) : (bitsPoly n f).degree < n := by
  refine (degree_lt_iff_coeff_zero _ _).mpr fun i hi => ?_
  rw [coeff_bitsPoly, if_neg (by omega)]

/-- Equal polynomials have equal bits. -/
theorem bitsPoly_inj (h : bitsPoly n f = bitsPoly n g) {i : Nat} (hi : i < n) : f i = g i := by
  have hcoeff := congrArg (coeff · i) h
  simp only [coeff_bitsPoly, hi, true_and] at hcoeff
  cases hf : f i <;> cases hg : g i <;> simp_all

end Bits

section Words

variable {w : Nat}

@[simp] theorem maskOf_getLsbD (w : Nat) (b : Bool) (i : Nat) : (maskOf w b).getLsbD i = (decide (i < w) && b) := by
  cases b with
  | false => simp [maskOf]
  | true =>
    have hmask : maskOf w true = BitVec.allOnes w := by
      rcases Nat.eq_zero_or_pos w with rfl | hw
      · exact Subsingleton.elim _ _
      · apply BitVec.eq_of_toNat_eq
        simp [maskOf, hw]
    simp [hmask]

theorem polyOf_xor (u v : BitVec w) : polyOf (u ^^^ v) = polyOf u + polyOf v := by
  rw [polyOf, polyOf, polyOf, ← bitsPoly_xor]
  exact bitsPoly_congr fun i _ => BitVec.getLsbD_xor

/-- A word under the mask of a bit is the word or zero (R213, R214). -/
theorem polyOf_and_maskOf (v : BitVec w) (b : Bool) : polyOf (v &&& maskOf w b) = if b then polyOf v else 0 := by
  rw [polyOf, polyOf, ← bitsPoly_and]
  exact bitsPoly_congr fun i hi => by rw [BitVec.getLsbD_and, maskOf_getLsbD, decide_eq_true hi, Bool.true_and]

@[simp] theorem polyOf_zero (w : Nat) : polyOf 0#w = 0 := by simp [polyOf, bitsPoly]

theorem polyOf_setWidth {m : Nat} (hm : w ≤ m) (v : BitVec w) : polyOf (v.setWidth m) = polyOf v := by
  rw [polyOf, bitsPoly_of_le hm (by simp +contextual [BitVec.getLsbD_of_ge]), polyOf]
  exact bitsPoly_congr fun i hi => by simp; omega

/-- Cutting zero bits off changes nothing. -/
theorem polyOf_setWidth_of_clear {m : Nat} (hm : m ≤ w) {v : BitVec w} (h : ∀ i, m ≤ i → v.getLsbD i = false) :
    polyOf (v.setWidth m) = polyOf v := by
  rw [polyOf, polyOf, bitsPoly_of_le hm fun i hlo _ => h i hlo]
  exact bitsPoly_congr fun i hi => by simp [hi]

/-- A shift that loses no bit multiplies by a power of `X`. -/
theorem polyOf_shiftLeft {k : Nat} (hk : k ≤ w) {v : BitVec w} (h : ∀ i, w - k ≤ i → v.getLsbD i = false) :
    polyOf (v <<< k) = X ^ k * polyOf v := by
  have hhigh : ∀ i, w ≤ i → i < w + k → (decide (k ≤ i) && v.getLsbD (i - k)) = false := fun i hlo _ => by
    simp [h (i - k) (by omega)]
  rw [polyOf, polyOf, X_pow_mul_bitsPoly, bitsPoly_of_le (Nat.le_add_right w k) hhigh]
  refine bitsPoly_congr fun i hi => ?_
  by_cases hki : k ≤ i
  · simp [hi, hki, Nat.not_lt.mpr hki, show i - k < w by omega]
  · simp [hi, hki, Nat.not_le.mp hki]

/-- The polynomial of a word of two halves. -/
theorem polyOf_halves (v : BitVec 128) :
    polyOf v = polyOf (v.setWidth 64) + X ^ 64 * polyOf ((v >>> 64).setWidth 64) := by
  have hsplit : ∑ i ∈ Finset.range 128, (if v.getLsbD i then X ^ i else 0 : Polynomial (ZMod 2)) =
      (∑ i ∈ Finset.range 64, if v.getLsbD i then X ^ i else 0)
        + ∑ i ∈ Finset.range 64, if v.getLsbD (64 + i) then X ^ (64 + i) else 0 := Finset.sum_range_add _ 64 64
  rw [polyOf, bitsPoly, hsplit, polyOf, polyOf, bitsPoly, bitsPoly, Finset.mul_sum]
  refine congrArg₂ (· + ·) (Finset.sum_congr rfl fun i hi => ?_) (Finset.sum_congr rfl fun i hi => ?_)
  · simp [Finset.mem_range.mp hi]
  · simp [Finset.mem_range.mp hi, pow_add]

end Words

/-- A block's polynomial by its two integer views (R212). -/
theorem blockPoly_eq_polyOf_pint (B : Block) : blockPoly B = polyOf (pint B) :=
  bitsPoly_congr (f := blockBit B) fun _ hi => (pint_getLsbD B hi).symm

theorem blockPoly_eq_revPoly_beint (B : Block) : blockPoly B = revPoly (beint B) :=
  bitsPoly_congr (f := blockBit B) fun _ hi => (beint_getLsbD B hi).symm

/-- A block is known by its polynomial. -/
theorem blockPoly_injective : Function.Injective blockPoly := by
  intro B C h
  have hpint : pint B = pint C := by
    rw [blockPoly_eq_polyOf_pint, blockPoly_eq_polyOf_pint] at h
    exact BitVec.eq_of_getLsbD_eq fun i hi => bitsPoly_inj h hi
  rw [← blkP_pint B, hpint, blkP_pint]

theorem degree_blockPoly_lt (B : Block) : (blockPoly B).degree < 128 := degree_bitsPoly_lt 128 (blockBit B)

end Sys2Proof.Machine
end

section
/-! PROOFS. The two field multipliers (`43_ghash.md` R213 to R216): each computes a polynomial congruent to the product modulo the
field polynomial and below its degree, which is the product's remainder, so the two are equal. -/

namespace Sys2Proof.Machine

open Polynomial

/-! ### The field polynomial -/

/-- The four low terms of the field polynomial, as bits (R210). -/
theorem bitsPoly_lowTerms {n : Nat} (hn : 8 ≤ n) {f : Nat → Bool}
    (h : ∀ i < n, f i = decide (i = 0 ∨ i = 1 ∨ i = 2 ∨ i = 7)) : bitsPoly n f = X ^ 7 + X ^ 2 + X + 1 := by
  rw [bitsPoly_of_le hn fun i hlo hi => (h i hi).trans (decide_eq_false (by omega)),
    bitsPoly_congr fun i hi => h i (by omega)]
  simp [bitsPoly, Finset.sum_range_succ]
  ring

theorem fieldPoly_eq : fieldPoly = X ^ 128 + (X ^ 7 + X ^ 2 + X + 1) := by
  unfold fieldPoly
  ring

theorem fieldPoly_monic : fieldPoly.Monic := by
  rw [fieldPoly_eq]
  exact monic_X_pow_add (by compute_degree!)

theorem degree_fieldPoly : fieldPoly.degree = 128 := by
  rw [fieldPoly_eq]
  compute_degree!

/-- What is below the degree of `q` and in the class of `f` is the remainder of `f`. -/
theorem eq_modByMonic {q z f : Polynomial (ZMod 2)} (hq : q.Monic) (hz : z.degree < q.degree) (hdvd : q ∣ z - f) :
    z = f %ₘ q := by
  rw [← modByMonic_eq_of_dvd_sub hq hdvd, (modByMonic_eq_self_iff hq).mpr hz]

/-- A polynomial below degree 128 in the class of a product is the product in the field. -/
theorem eq_fieldMul {z f h : Polynomial (ZMod 2)} (hz : z.degree < 128) (hdvd : fieldPoly ∣ z - f * h) :
    z = fieldMul f h :=
  eq_modByMonic fieldPoly_monic (by rw [degree_fieldPoly]; exact hz) hdvd

/-- Adding the field polynomial or not keeps the class. -/
theorem fieldPoly_dvd_ite (b : Bool) : fieldPoly ∣ (if b then fieldPoly else 0) := by
  cases b <;> simp

/-! ### Backend 0 -/

theorem revPoly_xor (u v : BitVec 128) : revPoly (u ^^^ v) = revPoly u + revPoly v := by
  rw [revPoly, revPoly, revPoly, ← bitsPoly_xor]
  exact bitsPoly_congr fun i _ => BitVec.getLsbD_xor

theorem revPoly_and_maskOf (v : BitVec 128) (b : Bool) : revPoly (v &&& maskOf 128 b) = if b then revPoly v else 0 := by
  rw [revPoly, revPoly, ← bitsPoly_and]
  exact bitsPoly_congr fun i _ => by
    rw [BitVec.getLsbD_and, maskOf_getLsbD, decide_eq_true (show 127 - i < 128 by omega), Bool.true_and]

/-- The reduction constant holds the four low terms (R213). -/
theorem revPoly_gmulR : revPoly gmulR = X ^ 7 + X ^ 2 + X + 1 := bitsPoly_lowTerms (by decide) (by decide)

/-- A right shift multiplies by `X`, but for the bit that falls out (R213). -/
theorem revPoly_shiftRight (v : BitVec 128) :
    X * revPoly v = revPoly (v >>> 1) + if v.getLsbD 0 then X ^ 128 else 0 := by
  have hmul := X_pow_mul_bitsPoly 1 128 fun i => v.getLsbD (127 - i)
  have hlow : ∀ i < 128, (decide (1 ≤ i) && v.getLsbD (127 - (i - 1))) = (v >>> 1).getLsbD (127 - i) := by
    intro i hi
    rw [BitVec.getLsbD_ushiftRight]
    rcases Nat.eq_zero_or_pos i with rfl | hpos
    · simp
    · rw [decide_eq_true (show 1 ≤ i by omega), Bool.true_and, show 127 - (i - 1) = 1 + (127 - i) by omega]
  rw [revPoly, ← pow_one X, hmul, bitsPoly, Finset.sum_range_succ, ← bitsPoly, bitsPoly_congr hlow, pow_one, revPoly]
  rfl

/-- The second component of an iteration: times `X`, reduced by the bit that falls out (R213). -/
theorem revPoly_double (v : BitVec 128) :
    revPoly ((v >>> 1) ^^^ (gmulR &&& maskOf 128 (v.getLsbD 0))) =
      X * revPoly v + if v.getLsbD 0 then fieldPoly else 0 := by
  rw [revPoly_xor, revPoly_and_maskOf, revPoly_gmulR, revPoly_shiftRight, fieldPoly_eq]
  cases v.getLsbD 0 with
  | false => simp
  | true =>
    simp only [if_true]
    linear_combination -CharTwo.add_self_eq_zero (X ^ 128 : Polynomial (ZMod 2))

/-- After `n` iterations `Z` is the product with the first `n` coefficients of `y`, and `V` is `x` times `X ^ n`, both modulo
the field polynomial. -/
theorem gmul0_iterations (x y : BitVec 128) (n : Nat) :
    let zv := (List.range n).foldl (gmul0Step y) (0#128, x)
    fieldPoly ∣ revPoly zv.1 - revPoly x * bitsPoly n (fun i => y.getLsbD (127 - i))
      ∧ fieldPoly ∣ revPoly zv.2 - X ^ n * revPoly x := by
  induction n with
  | zero => exact ⟨by simp [revPoly, bitsPoly], by simp⟩
  | succ n ih =>
    intro zv
    obtain ⟨⟨a, ha⟩, b, hb⟩ := ih
    have hzv : zv = gmul0Step y ((List.range n).foldl (gmul0Step y) (0#128, x)) n := by
      simp only [zv, List.range_succ, List.foldl_append, List.foldl_cons, List.foldl_nil]
    generalize (List.range n).foldl (gmul0Step y) (0#128, x) = zv₀ at ha hb hzv
    obtain ⟨c, hc⟩ := fieldPoly_dvd_ite (zv₀.2.getLsbD 0)
    rw [hzv]
    simp only [gmul0Step]
    rw [revPoly_double, revPoly_xor, revPoly_and_maskOf, hc, bitsPoly, Finset.sum_range_succ, ← bitsPoly]
    refine ⟨?_, X * b + c, by rw [pow_succ]; linear_combination X * hb⟩
    cases y.getLsbD (127 - n) with
    | false => exact ⟨a, by simpa using ha⟩
    | true => exact ⟨a + b, by simp only [if_true]; linear_combination ha + hb⟩

/-- Backend 0 computes the product in the field (R213). -/
theorem blockPoly_gMul0 (A B : Block) : blockPoly (gMul0 A B) = fieldMul (blockPoly A) (blockPoly B) := by
  obtain ⟨hdvd, -⟩ := gmul0_iterations (beint A) (beint B) 128
  refine eq_fieldMul (degree_blockPoly_lt _) ?_
  rw [blockPoly_eq_revPoly_beint, blockPoly_eq_revPoly_beint A, blockPoly_eq_revPoly_beint B, gMul0, beint_blkBe]
  exact hdvd

/-! ### Backend 1: the carry-less product -/

/-- The carry-less product of two words is the product of their polynomials (R215). -/
theorem polyOf_clmul64 (u v : BitVec 64) : polyOf (clmul64 u v) = polyOf u * polyOf v := by
  have hiterations : ∀ n ≤ 64, polyOf ((List.range n).foldl
      (fun c i => c ^^^ ((u.setWidth 128 <<< i) &&& maskOf 128 (v.getLsbD i))) 0#128) =
        polyOf u * bitsPoly n v.getLsbD := by
    intro n hn
    induction n with
    | zero => simp [bitsPoly]
    | succ n ih =>
      have hshift : polyOf (u.setWidth 128 <<< n) = X ^ n * polyOf u := by
        rw [polyOf_shiftLeft (by omega) fun i hi => by simp; intro _; exact BitVec.getLsbD_of_ge u i (by omega),
          polyOf_setWidth (by decide)]
      rw [List.range_succ, List.foldl_append, List.foldl_cons, List.foldl_nil, polyOf_xor, ih (by omega),
        polyOf_and_maskOf, hshift, bitsPoly, bitsPoly, Finset.sum_range_succ, mul_add]
      cases v.getLsbD n <;> simp [mul_comm]
  exact hiterations 64 le_rfl

/-- The 255-bit product from four products of halves (R214). -/
theorem polyOf_clmul128 (a b : BitVec 128) : polyOf (clmul128 a b) = polyOf a * polyOf b := by
  have hwide (v : BitVec 128) {k : Nat} (hk : k ≤ 128) : polyOf (v.setWidth 256 <<< k) = X ^ k * polyOf v := by
    rw [polyOf_shiftLeft (by omega) fun i hi => by simp; intro _; exact BitVec.getLsbD_of_ge v i (by omega),
      polyOf_setWidth (by decide)]
  rw [clmul128, polyOf_xor, polyOf_xor, polyOf_setWidth (by decide), hwide _ (by decide), hwide _ (by decide), polyOf_xor,
    polyOf_clmul64, polyOf_clmul64, polyOf_clmul64, polyOf_clmul64, polyOf_halves a, polyOf_halves b]
  ring

/-! ### Backend 1: the reduction -/

theorem gmulG_getLsbD_of_gt {i : Nat} (hi : 128 < i) : gmulG.getLsbD i = false :=
  Nat.testBit_lt_two_pow ((show gmulG.toNat < 2 ^ 129 by decide).trans_le (Nat.pow_le_pow_right (by decide) hi))

/-- The field polynomial as a number is its highest bit and the four low terms (R214). -/
theorem polyOf_gmulG : polyOf gmulG = fieldPoly := by
  have hbits : gmulG = ((1#1).setWidth 256 <<< 128) ^^^ (0x87#8).setWidth 256 := by decide
  have htop : polyOf (1#1) = 1 := by simp [polyOf, bitsPoly]
  have hlow : polyOf (0x87#8) = X ^ 7 + X ^ 2 + X + 1 := bitsPoly_lowTerms le_rfl (by decide)
  have hclear : ∀ i, 256 - 128 ≤ i → ((1#1).setWidth 256).getLsbD i = false := fun i hi => by
    rw [BitVec.getLsbD_setWidth, BitVec.getLsbD_of_ge _ i (by omega), Bool.and_false]
  rw [hbits, polyOf_xor, polyOf_shiftLeft (by decide) hclear, polyOf_setWidth (by decide), polyOf_setWidth (by decide), htop,
    hlow, fieldPoly_eq, mul_one]

/-- One pass clears bit `k` of a product that has no bit above it, and keeps its class (R214). -/
theorem gmul1Step_clears {c : BitVec 256} {k : Nat} (hlo : 128 ≤ k) (hhi : k < 255)
    (hc : ∀ i, k < i → c.getLsbD i = false) :
    (∀ i, k ≤ i → (gmul1Step c k).getLsbD i = false) ∧ fieldPoly ∣ polyOf (gmul1Step c k) - polyOf c := by
  constructor
  · intro i hi
    rw [gmul1Step, BitVec.getLsbD_xor, BitVec.getLsbD_and, maskOf_getLsbD, BitVec.getLsbD_shiftLeft]
    rcases Nat.eq_or_lt_of_le hi with rfl | hlt
    · have htop : gmulG.getLsbD (k - (k - 128)) = true := by rw [show k - (k - 128) = 128 by omega]; decide
      simp [htop, show k < 256 by omega, show ¬ k < k - 128 by omega]
    · simp [hc i hlt, gmulG_getLsbD_of_gt (show 128 < i - (k - 128) by omega)]
  · have hshift : polyOf (gmulG <<< (k - 128)) = X ^ (k - 128) * fieldPoly := by
      rw [polyOf_shiftLeft (by omega) fun i hi => gmulG_getLsbD_of_gt (by omega), polyOf_gmulG]
    rw [gmul1Step, polyOf_xor, polyOf_and_maskOf, hshift, add_sub_cancel_left]
    cases c.getLsbD k <;> simp

/-- `n` passes clear the bits from `255 - n` on. -/
theorem gmul1_passes {c : BitVec 256} (hc : c.getLsbD 255 = false) {n : Nat} (hn : n ≤ 127) :
    let r := ((List.range n).map (254 - ·)).foldl gmul1Step c
    (∀ i, 255 - n ≤ i → r.getLsbD i = false) ∧ fieldPoly ∣ polyOf r - polyOf c := by
  induction n with
  | zero =>
    refine ⟨fun i hi => ?_, by simp⟩
    rcases Nat.eq_or_lt_of_le hi with rfl | hlt
    · exact hc
    · exact BitVec.getLsbD_of_ge c i hlt
  | succ n ih =>
    intro r
    obtain ⟨hclear, hdvd⟩ := ih (by omega)
    have hr : r = gmul1Step (((List.range n).map (254 - ·)).foldl gmul1Step c) (254 - n) := by
      simp only [r, List.range_succ, List.map_append, List.foldl_append, List.map_cons, List.map_nil, List.foldl_cons,
        List.foldl_nil]
    obtain ⟨hclear', hdvd'⟩ := gmul1Step_clears (k := 254 - n) (by omega) (by omega) fun i hi => hclear i (by omega)
    rw [hr]
    exact ⟨fun i hi => hclear' i (by omega), by simpa using dvd_add hdvd' hdvd⟩

/-- The product of two blocks has no bit 255. -/
theorem clmul128_topBit (a b : BitVec 128) : (clmul128 a b).getLsbD 255 = false := by
  have hdegree (v : BitVec 128) : (polyOf v).natDegree ≤ 127 := by
    refine natDegree_le_iff_coeff_eq_zero.mpr fun i hi => ?_
    rw [polyOf, coeff_bitsPoly, if_neg (by omega)]
  have hcoeff : (polyOf (clmul128 a b)).coeff 255 = 0 := by
    rw [polyOf_clmul128]
    exact coeff_eq_zero_of_natDegree_lt ((natDegree_mul_le_of_le (hdegree a) (hdegree b)).trans_lt (by decide))
  rw [polyOf, coeff_bitsPoly] at hcoeff
  simpa using hcoeff

/-- Backend 1 computes the product in the field (R214). -/
theorem blockPoly_gMul1 (A B : Block) : blockPoly (gMul1 A B) = fieldMul (blockPoly A) (blockPoly B) := by
  obtain ⟨hclear, hdvd⟩ := gmul1_passes (clmul128_topBit (pint A) (pint B)) (n := 127) le_rfl
  refine eq_fieldMul (degree_blockPoly_lt _) ?_
  rw [blockPoly_eq_polyOf_pint, blockPoly_eq_polyOf_pint A, blockPoly_eq_polyOf_pint B, gMul1, pint_blkP,
    ← polyOf_clmul128, gmul1Reduce, polyOf_setWidth_of_clear (m := 128) (by decide) hclear]
  exact hdvd

theorem gMul0_eq_gMul1 (A B : Block) : gMul0 A B = gMul1 A B :=
  blockPoly_injective ((blockPoly_gMul0 A B).trans (blockPoly_gMul1 A B).symm)

/-- Settles O36: both results are the product in the field, and a block is known by its polynomial. -/
theorem backendsComputeFieldProduct : Obligations.BackendsComputeFieldProduct := fun A B =>
  ⟨blockPoly_gMul0 A B, blockPoly_gMul1 A B, gMul0_eq_gMul1 A B⟩

end Sys2Proof.Machine
end

section
/-! PROOFS. The backend is unobservable (`43_ghash.md` R216): replacing it in a context changes no other register after any
command, and no result but the status registers'. -/

namespace Sys2Proof.Machine

/-- A context with another backend. -/
def GhashCtx.withBackend (b : Bool) (g : GhashCtx) : GhashCtx := { g with backend := b }

/-- Either backend gives the same block (R216). -/
theorem gMul_backend (b b' : Bool) (X Y : Block) : gMul b X Y = gMul b' X Y := by
  cases b <;> cases b' <;> simp [gMul, gMul0_eq_gMul1]

section Backend

variable (b : Bool) (g : GhashCtx)

theorem GhashCtx.pad_withBackend : (g.withBackend b).pad = g.pad.withBackend b := by
  by_cases hn : g.n = 0#5
  · rw [GhashCtx.pad_of_empty hn, GhashCtx.pad_of_empty (g := g.withBackend b) hn]
  · rw [GhashCtx.pad_of_pending hn, GhashCtx.pad_of_pending (g := g.withBackend b) hn]
    simp only [GhashCtx.withBackend, gMul_backend b g.backend]

theorem GhashCtx.absorb_withBackend (D : Bytes) : (g.withBackend b).absorb D = (g.absorb D).withBackend b := by
  rw [GhashCtx.absorb_eq, GhashCtx.absorb_eq]
  simp only [GhashCtx.withBackend, gMul_backend b g.backend]

theorem GhashCtx.addAad_withBackend (len : BitVec 16) (D : Bytes) :
    (g.withBackend b).addAad len D = (g.addAad len D).withBackend b :=
  GhashCtx.absorb_withBackend b { g with lenAad := g.lenAad + len.setWidth 64 } D

theorem GhashCtx.enterCipher_withBackend : (g.withBackend b).enterCipher = g.enterCipher.withBackend b := by
  rw [GhashCtx.enterCipher, GhashCtx.enterCipher, GhashCtx.pad_withBackend, apply_ite (GhashCtx.withBackend b)]
  rfl

theorem GhashCtx.addCipher_withBackend (len : BitVec 16) (D : Bytes) :
    (g.withBackend b).addCipher len D = (g.addCipher len D).withBackend b := by
  rw [GhashCtx.addCipher, GhashCtx.enterCipher_withBackend]
  exact GhashCtx.absorb_withBackend b { g.enterCipher with lenCt := g.enterCipher.lenCt + len.setWidth 64 } D

/-- The value GFIN pushes does not depend on the backend. -/
theorem GhashCtx.value_withBackend : (g.withBackend b).value = g.value := by
  rw [GhashCtx.value_eq, GhashCtx.value_eq, GhashCtx.pad_withBackend]
  exact congrArg Vector.toList (gMul_backend _ _ _ _)

end Backend

/-- A completed command leaves the same context on some backend, when the strap and the backend are others. -/
theorem ghashAfter_withBackend (i : Instr) (D : Bytes) (cap cap' b : Bool) (g : GhashCtx) :
    ∃ b', ghashAfter i D cap' (g.withBackend b) = (ghashAfter i D cap g).withBackend b' := by
  cases i with
  | wipe arg len =>
    simp only [ghashAfter]
    split
    · exact ⟨false, rfl⟩
    · exact ⟨b, rfl⟩
  | ginit arg len => exact ⟨cap', rfl⟩
  | gaad arg len => exact ⟨b, g.addAad_withBackend b len D⟩
  | gciph arg len => exact ⟨b, g.addCipher_withBackend b len D⟩
  | gfin arg len => exact ⟨false, rfl⟩
  | _ => exact ⟨b, rfl⟩

/-- The core with another strap and another backend in its GHASH context. -/
def State.withBackend (cap b : Bool) (s : State) : State := { s with capClmul := cap, g := s.g.withBackend b }

/-- What a command other than RDSR pushes does not depend on them. -/
theorem outOf_withBackend {i : Instr} (hi : ∀ arg len, i ≠ .rdsr arg len) (D : Bytes) (cap b : Bool) (t : State) :
    outOf i D (t.withBackend cap b) = outOf i D t := by
  cases i with
  | rdsr arg len => exact absurd rfl (hi arg len)
  | gfin arg len => exact t.g.value_withBackend b
  | _ => rfl

/-- A command other than RDSR runs the same way on a core with another strap and backend. -/
theorem exec_withBackend {i : Instr} {s t : State} (hi : ∀ arg len, i ≠ .rdsr arg len) (hex : exec i s = .next t)
    (cap b : Bool) : ∃ b', exec i (s.withBackend cap b) = .next (t.withBackend cap b') := by
  have hcheck : commandFault i (s.withBackend cap b) = commandFault i s := commandFault_congr i rfl rfl
  rcases exec_cases hex with ⟨c, hc, rfl⟩ | ⟨hnone, hshort, rfl⟩ | ⟨hnone, hdin, -⟩
  · exact ⟨false, exec_fault (hcheck.trans hc)⟩
  · exact ⟨b, exec_hold (hcheck.trans hnone) hshort⟩
  · obtain ⟨b', hg⟩ := ghashAfter_withBackend i (s.din.take i.len.toNat) s.capClmul cap b s.g
    have hout := outOf_withBackend hi (s.din.take i.len.toNat) cap b (s.popCmd.dropDin i.len.toNat)
    refine ⟨b', ?_⟩
    rw [exec_effects hnone hdin] at hex
    cases hex
    exact exec_completes (hcheck.trans hnone) hdin rfl hg (congrArg (s.dout ++ ·) hout) rfl rfl

/-- Settles O55: the two multipliers are one function, so each command's effects carry another backend through; of what RDSR
reads, only the strap's bit and bit 3 of `SR2` come from them. -/
theorem backendUnobservable : Obligations.BackendUnobservable := by
  refine ⟨gMul0_eq_gMul1, fun i s t cap b hex hi => exec_withBackend hi hex cap b,
    fun s cap b => ⟨rfl, fun hcap => ?_, fun k hk => ?_⟩⟩
  · subst hcap
    rfl
  · rw [statusWord_getLsbD, statusWord_getLsbD]
    split_ifs
    · rfl
    · rfl
    · exact absurd (show k = 3 by omega) hk
    · rfl
    · rfl

end Sys2Proof.Machine
end

section
/-! PROOFS. Two cores that agree on public state (`00_scope.md` R17): what a command makes of the public registers of each context
depends on public registers and on how long the payload is. -/

namespace Sys2Proof.Machine

/-- The public registers of `G` (R17): all but the subkey, the accumulator and the buffer. -/
structure GhashCtx.SamePublic (g k : GhashCtx) : Prop where
  n : g.n = k.n
  lenAad : g.lenAad = k.lenAad
  lenCt : g.lenCt = k.lenCt
  phase : g.phase = k.phase
  backend : g.backend = k.backend

/-- The public registers of `P` (R17): the count and the context flag. -/
structure PolyCtx.SamePublic (p q : PolyCtx) : Prop where
  n : p.n = q.n
  active : p.active = q.active

/-- The count the streaming buffer returns depends on the count it was given and the payload's length. -/
theorem bwa_n_congr (buf buf' : Block) (n : Nat) {D E : Bytes} (h : D.length = E.length) :
    (bwa buf n D).n = (bwa buf' n E).n := by
  unfold bwa
  rw [h]
  dsimp only
  split_ifs <;> simp [bwaRest, remainderOf_length, h]

theorem PolyCtx.SamePublic.refl (p : PolyCtx) : p.SamePublic p := ⟨rfl, rfl⟩

/-- The public registers of `P` after a completed command. -/
theorem polyAfter_samePublic (i : Instr) {D E : Bytes} (hDE : D.length = E.length) {p q : PolyCtx} (h : p.SamePublic q) :
    (polyAfter i D p).SamePublic (polyAfter i E q) := by
  cases i with
  | wipe arg len =>
    rw [polyAfter, polyAfter]
    split
    · exact PolyCtx.SamePublic.refl _
    · exact h
  | pinit arg len => exact ⟨rfl, rfl⟩
  | pupd arg len =>
    rw [polyAfter, polyAfter, PolyCtx.update_eq, PolyCtx.update_eq]
    refine ⟨congrArg (BitVec.ofNat 5) ?_, h.active⟩
    rw [h.n]
    exact bwa_n_congr _ _ _ hDE
  | pfin arg len => exact PolyCtx.SamePublic.refl _
  | _ => exact h

section Ghash

variable {g k : GhashCtx}

theorem GhashCtx.SamePublic.refl (g : GhashCtx) : g.SamePublic g := ⟨rfl, rfl, rfl, rfl, rfl⟩

theorem GhashCtx.SamePublic.pad (h : g.SamePublic k) : g.pad.SamePublic k.pad := by
  obtain ⟨-, hlenAad, hlenCt, hphase, hbackend⟩ := g.pad_frame
  obtain ⟨-, hlenAad', hlenCt', hphase', hbackend'⟩ := k.pad_frame
  exact ⟨g.pad_count.trans k.pad_count.symm, (hlenAad.trans h.lenAad).trans hlenAad'.symm,
    (hlenCt.trans h.lenCt).trans hlenCt'.symm, (hphase.trans h.phase).trans hphase'.symm,
    (hbackend.trans h.backend).trans hbackend'.symm⟩

theorem GhashCtx.SamePublic.enterCipher (h : g.SamePublic k) : g.enterCipher.SamePublic k.enterCipher := by
  obtain ⟨hn, hlenAad, hlenCt, -, hbackend⟩ := h.pad
  rw [GhashCtx.enterCipher, GhashCtx.enterCipher, h.phase]
  split
  · exact ⟨hn, hlenAad, hlenCt, rfl, hbackend⟩
  · exact h

theorem GhashCtx.SamePublic.absorb (h : g.SamePublic k) {D E : Bytes} (hDE : D.length = E.length) :
    (g.absorb D).SamePublic (k.absorb E) := by
  rw [GhashCtx.absorb_eq, GhashCtx.absorb_eq]
  refine ⟨congrArg (BitVec.ofNat 5) ?_, h.lenAad, h.lenCt, h.phase, h.backend⟩
  rw [h.n]
  exact bwa_n_congr _ _ _ hDE

theorem GhashCtx.init_samePublic (A B : Block) (cap : Bool) :
    (GhashCtx.init A cap).SamePublic (GhashCtx.init B cap) := ⟨rfl, rfl, rfl, rfl, rfl⟩

/-- The public registers of `G` after a completed command. -/
theorem ghashAfter_samePublic (i : Instr) {D E : Bytes} (hDE : D.length = E.length) {cap cap' : Bool} (hcap : cap = cap')
    (h : g.SamePublic k) : (ghashAfter i D cap g).SamePublic (ghashAfter i E cap' k) := by
  cases i with
  | wipe arg len =>
    simp only [ghashAfter]
    split
    · exact GhashCtx.SamePublic.refl _
    · exact h
  | ginit arg len => exact hcap ▸ GhashCtx.init_samePublic _ _ cap
  | gaad arg len =>
    have hcount : ({ g with lenAad := g.lenAad + len.setWidth 64 } : GhashCtx).SamePublic
        { k with lenAad := k.lenAad + len.setWidth 64 } :=
      ⟨h.n, by rw [h.lenAad], h.lenCt, h.phase, h.backend⟩
    exact hcount.absorb hDE
  | gciph arg len =>
    have henter := h.enterCipher
    have hcount : ({ g.enterCipher with lenCt := g.enterCipher.lenCt + len.setWidth 64 } : GhashCtx).SamePublic
        { k.enterCipher with lenCt := k.enterCipher.lenCt + len.setWidth 64 } :=
      ⟨henter.n, henter.lenAad, by rw [henter.lenCt], henter.phase, henter.backend⟩
    exact hcount.absorb hDE
  | gfin arg len => exact GhashCtx.SamePublic.refl _
  | _ => exact h

end Ghash

/-! ### One command on two such cores -/

section Pair

variable {i : Instr} {s t s' t' : State}

theorem State.SamePublicButRsp.poly (h : s.SamePublicButRsp t) : s.p.SamePublic t.p := by
  obtain ⟨hn, hactive, -⟩ := h
  exact ⟨hn, hactive⟩

theorem State.SamePublicButRsp.ghash (h : s.SamePublicButRsp t) : s.g.SamePublic t.g := by
  obtain ⟨-, -, hn, hlenAad, hlenCt, hphase, hbackend, -⟩ := h
  exact ⟨hn, hlenAad, hlenCt, hphase, hbackend⟩

theorem State.SamePublicButRsp.din_length (h : s.SamePublicButRsp t) : s.din.length = t.din.length := by
  obtain ⟨-, -, -, -, -, -, -, -, -, -, -, -, hdin, -⟩ := h
  exact hdin

theorem State.SamePublicButRsp.cmd_eq (h : s.SamePublicButRsp t) : s.cmd = t.cmd := by
  obtain ⟨-, -, -, -, -, -, -, -, -, -, -, hcmd, -⟩ := h
  exact hcmd

theorem State.SamePublicButRsp.take_length (h : s.SamePublicButRsp t) (n : Nat) :
    (s.din.take n).length = (t.din.take n).length := by
  rw [List.length_take, List.length_take, h.din_length]

theorem State.SamePublicButRsp.commandFault_eq (h : s.SamePublicButRsp t) (i : Instr) :
    commandFault i s = commandFault i t :=
  commandFault_congr i h.poly.active h.ghash.phase

/-- Fault entry writes public registers from public state (`60_exceptions.md` R306). -/
theorem State.SamePublicButRsp.takeFault (h : s.SamePublicButRsp t) (c : FaultCause) (w : Word) :
    (s.popCmd.takeFault c w).SamePublicButRsp (t.popCmd.takeFault c w) := by
  obtain ⟨-, -, -, -, -, -, -, hcap, -, -, -, hcmd, hdin, hdout⟩ := h
  exact ⟨rfl, rfl, rfl, rfl, rfl, rfl, rfl, hcap, rfl, rfl, rfl, congrArg List.tail hcmd, hdin, hdout⟩

/-- A command that completes writes public registers from public state and the payload's length. -/
theorem State.SamePublicButRsp.completed (h : s.SamePublicButRsp t) (hnone : commandFault i s = none) :
    (Machine.completed i s).SamePublicButRsp (Machine.completed i t) := by
  have hlength := h.take_length i.len.toNat
  have hpoly := polyAfter_samePublic i hlength h.poly
  have hghash := h.ghash
  obtain ⟨hwf, -⟩ := (commandFault_none_iff i s).mp hnone
  obtain ⟨harg, -⟩ := Bool.and_eq_true_iff.mp hwf
  obtain ⟨-, -, -, -, -, -, -, hcap, hfault, hfcode, hfcmd, hcmd, hdin, hdout⟩ := h
  obtain ⟨hgn, hlenAad, hlenCt, hphase, hbackend⟩ := ghashAfter_samePublic i hlength hcap hghash
  refine ⟨hpoly.n, hpoly.active, hgn, hlenAad, hlenCt, hphase, hbackend, hcap, hfault, hfcode, hfcmd,
    congrArg List.tail hcmd, ?_, ?_⟩
  · simp only [Machine.completed, List.length_drop, hdin]
  · simp only [Machine.completed, List.length_append, outOf_length harg, hdout]

/-- A command does the same kind of thing on both cores: fault entry for one cause, nothing, or all its effects. -/
theorem exec_pair_cases (h : s.SamePublicButRsp t) (hex : exec i s = .next s') (hex' : exec i t = .next t') :
    (∃ c, s' = s.popCmd.takeFault c (encode i) ∧ t' = t.popCmd.takeFault c (encode i)) ∨ (s' = s ∧ t' = t)
      ∨ (commandFault i s = none ∧ s' = completed i s ∧ t' = completed i t) := by
  have hcheck := h.commandFault_eq i
  rcases exec_cases hex with ⟨c, hc, rfl⟩ | ⟨hnone, hshort, rfl⟩ | ⟨hnone, hdin, -⟩
  · rw [exec_fault (hcheck.symm.trans hc)] at hex'
    exact .inl ⟨c, rfl, (Host.Outcome.next.inj hex').symm⟩
  · rw [exec_hold (hcheck.symm.trans hnone) (h.din_length ▸ hshort)] at hex'
    exact .inr (.inl ⟨rfl, (Host.Outcome.next.inj hex').symm⟩)
  · rw [exec_completed hnone hdin] at hex
    rw [exec_completed (hcheck.symm.trans hnone) (h.din_length ▸ hdin)] at hex'
    exact .inr (.inr ⟨hnone, (Host.Outcome.next.inj hex).symm, (Host.Outcome.next.inj hex').symm⟩)

end Pair
end Sys2Proof.Machine
end

section
/-! PROOFS. No command but PFIN and GFIN lets a secret register out (`10_state.md` R45): what the others answer comes from public
state and the payload. -/

namespace Sys2Proof.Machine

/-- What a command other than PFIN and GFIN pushes depends on public state and the payload. -/
theorem outOf_samePublic {i : Instr} (hpfin : ∀ arg len, i ≠ .pfin arg len) (hgfin : ∀ arg len, i ≠ .gfin arg len)
    (D : Bytes) {s t : State} (h : s.SamePublic t) : outOf i D s = outOf i D t := by
  cases i with
  | pfin arg len => exact absurd rfl (hpfin arg len)
  | gfin arg len => exact absurd rfl (hgfin arg len)
  | rdsr arg len => simp only [outOf, statusBytes, statusReg_congr h]
  | _ => rfl

/-- Settles O56: fault entry and a hold move no result byte, and a completed command answers from what the two cores share. -/
theorem secretsStayInside : Obligations.SecretsStayInside := by
  rintro i s t s' t' ⟨⟨hpub, hrsp⟩, hdin, hdout⟩ hex hex' hpfin hgfin
  rcases exec_pair_cases hpub hex hex' with ⟨c, rfl, rfl⟩ | ⟨rfl, rfl⟩ | ⟨hnone, rfl, rfl⟩
  · exact ⟨⟨hpub.takeFault c _, congrArg (· ++ _) hrsp⟩, hdin, hdout⟩
  · exact ⟨⟨hpub, hrsp⟩, hdin, hdout⟩
  · have hout := outOf_samePublic hpfin hgfin (s.din.take i.len.toNat) (s := s) (t := t) ⟨hpub, hrsp⟩
    refine ⟨⟨hpub.completed hnone, ?_⟩, congrArg (List.drop _) hdin, ?_⟩
    · simp only [completed, hrsp, hdin]
    · rw [outOf_congr i _ (s := s.popCmd.dropDin i.len.toNat) (t := s) rfl rfl rfl,
        outOf_congr i _ (s := t.popCmd.dropDin i.len.toNat) (t := t) rfl rfl rfl, hdin] at hout
      simp only [completed, hdout, hdin, hout]

end Sys2Proof.Machine
end

section
/-! PROOFS. The leakage rule (`40_ct_primitives.md` R125): the micro-operations of a word, and all public state after it, depend
on public state, but for the outcome of CTEQ in bit 0 of its code. -/

namespace Sys2Proof.Machine

/-! ### The micro-operations -/

theorem padOps_congr {g k : GhashCtx} (h : g.SamePublic k) : padOps g = padOps k := by
  rw [padOps, padOps, h.n, h.backend]

/-- The operations of a completing command depend on public state and the payload's length. -/
theorem bodyOps_congr (i : Instr) {s t : State} (h : s.SamePublic t) {D E : Bytes} (hDE : D.length = E.length) :
    bodyOps i s D = bodyOps i t E := by
  have hpoly := State.SamePublicButRsp.poly h.1
  have hghash := State.SamePublicButRsp.ghash h.1
  cases i with
  | rdsr arg len => simp only [bodyOps, statusBytes, statusReg_congr h]
  | cteq arg len => simp only [bodyOps, slice, List.drop_zero, List.length_take, hDE]
  | pupd arg len =>
    simp only [bodyOps, hpoly.n]
    exact bwaOps_congr _ _ hDE
  | pfin arg len => simp only [bodyOps, hpoly.n, PolyCtx.tag_length]
  | gaad arg len =>
    simp only [bodyOps, hghash.n, hghash.backend]
    exact bwaOps_congr _ _ hDE
  | gciph arg len =>
    simp only [bodyOps, hghash.phase, padOps_congr hghash, hghash.enterCipher.n, hghash.enterCipher.backend]
    rw [bwaOps_congr _ _ hDE]
  | gfin arg len => simp only [bodyOps, padOps_congr hghash, hghash.pad.backend, GhashCtx.value_length]
  | gtag arg len | gfmul arg len => simp only [bodyOps, List.length_take, Vector.length_toList]
  | _ => rfl

theorem commandOps_congr (i : Instr) {s t : State} (h : s.SamePublic t) : commandOps i s = commandOps i t := by
  have hpub := h.1
  rw [commandOps, commandOps, State.SamePublicButRsp.commandFault_eq hpub, State.SamePublicButRsp.din_length hpub,
    bodyOps_congr i h (State.SamePublicButRsp.take_length hpub i.len.toNat)]

/-- Any word performs the same operations on two cores that agree on public state. -/
theorem microOps_congr (w : Word) {s t : State} (h : s.SamePublic t) : microOps w s = microOps w t := by
  cases hd : decode w with
  | error e => rw [microOps_illegal hd, microOps_illegal hd]
  | ok i => rw [microOps_command hd, microOps_command hd, commandOps_congr i h]

/-! ### The response of CTEQ -/

/-- Only CTEQ has an outcome that its payload decides (`30_encoding.md` R97). -/
theorem codeOf_of_ne_cteq {i : Instr} (hi : ∀ arg len, i ≠ .cteq arg len) (D : Bytes) : codeOf i D = codeOk := by
  cases i with
  | cteq arg len => exact absurd rfl (hi arg len)
  | _ => rfl

/-- The outcome stands in bit 0. -/
theorem response_codeOf_shift (i : Instr) (D E : Bytes) :
    response i.opc (codeOf i D) >>> 1 = response i.opc (codeOf i E) >>> 1 := by
  cases i with
  | cteq arg len =>
    simp only [codeOf, Instr.opc]
    split <;> split <;> decide
  | _ => rfl

/-- Two cores agree on public state after a command, `plain` being what rules CTEQ out: the responses agree then, and always
but for bit 0 of the last. -/
structure AgreeButOutcome (plain : Prop) (s t : State) : Prop where
  pub : s.SamePublicButRsp t
  rsp : plain → s.rsp = t.rsp
  earlier : s.rsp.dropLast = t.rsp.dropLast
  shifted : s.rsp.map (fun v : Word => v >>> 1) = t.rsp.map (fun v : Word => v >>> 1)

theorem AgreeButOutcome.of_samePublic {s t : State} (plain : Prop) (h : s.SamePublic t) : AgreeButOutcome plain s t := by
  obtain ⟨hpub, hrsp⟩ := h
  exact ⟨hpub, fun _ => hrsp, by rw [hrsp], by rw [hrsp]⟩

/-- One command on two cores that agree on public state. -/
theorem exec_agreeButOutcome {i : Instr} {s t s' t' : State} (h : s.SamePublic t) (hex : exec i s = .next s')
    (hex' : exec i t = .next t') : AgreeButOutcome (∀ arg len, i ≠ .cteq arg len) s' t' := by
  obtain ⟨hpub, hrsp⟩ := h
  rcases exec_pair_cases hpub hex hex' with ⟨c, rfl, rfl⟩ | ⟨rfl, rfl⟩ | ⟨hnone, rfl, rfl⟩
  · exact .of_samePublic _ ⟨hpub.takeFault c _, congrArg (· ++ _) hrsp⟩
  · exact .of_samePublic _ ⟨hpub, hrsp⟩
  · refine ⟨hpub.completed hnone, fun hi => ?_, ?_, ?_⟩
    · simp only [completed, hrsp, codeOf_of_ne_cteq hi]
    · simp only [completed, hrsp, List.dropLast_concat]
    · simp only [completed, hrsp, List.map_append, List.map_singleton,
        response_codeOf_shift i (s.din.take i.len.toNat) (t.din.take i.len.toNat)]

/-- One step on two cores that agree on public state. -/
theorem step_agreeButOutcome {s t s' t' : State} (h : s.SamePublic t) (hstep : step s = .next s')
    (hstep' : step t = .next t') :
    AgreeButOutcome (∀ w rest, s.cmd = w :: rest → opcOf w ≠ 0x12#8) s' t' := by
  have hcmd := State.SamePublicButRsp.cmd_eq h.1
  obtain ⟨hf', -⟩ := step_cases hstep'
  obtain ⟨-, ⟨hc, rfl⟩ | ⟨w, rest, e, hc, hd, rfl⟩ | ⟨w, rest, i, hc, hd, hex⟩⟩ := step_cases hstep
  · rw [step_idle hf' (hcmd.symm.trans hc)] at hstep'
    cases hstep'
    exact .of_samePublic _ h
  · rw [step_illegal hf' (hcmd.symm.trans hc) hd] at hstep'
    cases hstep'
    exact .of_samePublic _ ⟨State.SamePublicButRsp.takeFault h.1 _ _, congrArg (· ++ _) h.2⟩
  · rw [step_exec hf' (hcmd.symm.trans hc) hd] at hstep'
    have hafter := exec_agreeButOutcome h hex hstep'
    refine ⟨hafter.pub, fun hplain => hafter.rsp fun arg len hi => hplain w rest hc ?_, hafter.earlier, hafter.shifted⟩
    obtain ⟨hopc, -, -⟩ := fields_of_decode hd
    rw [← hopc, hi]
    rfl

/-- Settles O57: each word's operations, then each command and each step, on two cores that agree on public state. -/
theorem leakageIsPublic : Obligations.LeakageIsPublic := by
  refine ⟨fun w s t => microOps_congr w, fun i s t s' t' h hex hex' => ?_, fun s t s' t' h hstep hstep' => ?_⟩
  · obtain ⟨hpub, hrsp, hearlier, hshifted⟩ := exec_agreeButOutcome h hex hex'
    exact ⟨hpub, hrsp, hearlier, hshifted⟩
  · obtain ⟨hpub, hrsp, hearlier, hshifted⟩ := step_agreeButOutcome h hstep hstep'
    exact ⟨hpub, hrsp, hearlier, hshifted⟩

end Sys2Proof.Machine
end

section
/-! PROOFS. GHASH as a function on blocks (`43_ghash.md` R229): the recurrence with either multiplier, and its value as a
polynomial. -/

namespace Sys2Proof.Machine

/-- One step of the recurrence, `Y <- (Y + X) * H`. -/
def ghashStep (H Y X : Block) : Block := gMul false (xorBlock Y X) H

/-- The recurrence over a list of blocks from zero. -/
def ghashFold (H : Block) (Bs : List Block) : Block := Bs.foldl (ghashStep H) zeroBlock

/-- `GHASH(H, A, C)`. -/
def ghash (H : Block) (A C : Bytes) : Block := ghashFold H (ghashBlocks A C)

theorem blockPoly_gMul (b : Bool) (X Y : Block) : blockPoly (gMul b X Y) = fieldMul (blockPoly X) (blockPoly Y) := by
  cases b
  · exact blockPoly_gMul0 X Y
  · exact blockPoly_gMul1 X Y

theorem blockBit_xorBlock (A B : Block) {i : Nat} (hi : i < 128) :
    blockBit (xorBlock A B) i = (blockBit A i ^^ blockBit B i) := by
  simp [blockBit, xorBlock, List.getD_eq_getElem?_getD, show i / 8 < 16 by omega]

/-- Addition of blocks is addition of polynomials (R211). -/
theorem blockPoly_xorBlock (A B : Block) : blockPoly (xorBlock A B) = blockPoly A + blockPoly B :=
  (bitsPoly_congr fun _ hi => blockBit_xorBlock A B hi).trans (bitsPoly_xor 128 _ _)

theorem blockPoly_zeroBlock : blockPoly zeroBlock = 0 := by
  have hbit : ∀ i < 128, blockBit zeroBlock i = false := by decide
  exact (bitsPoly_of_le (Nat.zero_le 128) fun i _ => hbit i).trans (Finset.sum_range_zero _)

theorem blockPoly_foldl_ghashStep (H Y : Block) (Bs : List Block) :
    blockPoly (Bs.foldl (ghashStep H) Y) =
      Bs.foldl (fun y X => fieldMul (y + blockPoly X) (blockPoly H)) (blockPoly Y) := by
  induction Bs generalizing Y with
  | nil => simp only [List.foldl_nil]
  | cons X Bs ih => rw [List.foldl_cons, List.foldl_cons, ih, ghashStep, blockPoly_gMul, blockPoly_xorBlock]

/-- The recurrence on blocks is the recurrence on polynomials. -/
theorem isGhash_ghash (H : Block) (A C : Bytes) : IsGhash H A C (ghash H A C) := by
  rw [IsGhash, ghash, ghashFold, blockPoly_foldl_ghashStep, blockPoly_zeroBlock]

/-- The engine's step is the recurrence's, on either backend (R216, R218). -/
theorem foldl_gMul_eq (b : Bool) (H Y : Block) (Bs : List Block) :
    Bs.foldl (fun Y X => gMul b (xorBlock Y X) H) Y = Bs.foldl (ghashStep H) Y := by
  simp only [gMul_backend b false]
  rfl

/-! ### Padding to a block boundary -/

theorem padding_length (S : Bytes) : (padding S).length = (16 - S.length % 16) % 16 := by simp [padding, zeros]

theorem padding_of_aligned {S : Bytes} (h : S.length % 16 = 0) : padding S = [] :=
  List.length_eq_zero_iff.mp (by rw [padding_length, h])

theorem pad16_of_aligned {S : Bytes} (h : S.length % 16 = 0) : pad16 S = S := by
  rw [pad16, padding_of_aligned h, List.append_nil]

theorem pad16_length_mod (S : Bytes) : (pad16 S).length % 16 = 0 := by
  rw [pad16, List.length_append, padding_length]
  omega

theorem pad16_append {S E : Bytes} (h : S.length % 16 = 0) : pad16 (S ++ E) = S ++ pad16 E := by
  have hlength : (S ++ E).length % 16 = E.length % 16 := by
    rw [List.length_append]
    omega
  rw [pad16, pad16, padding, padding, hlength, List.append_assoc]

theorem remainderOf_of_aligned {S : Bytes} (h : S.length % 16 = 0) : remainderOf S = [] :=
  List.length_eq_zero_iff.mp ((remainderOf_length_eq_mod S).trans h)

end Sys2Proof.Machine
end

section
/-! PROOFS. A live GHASH context against GHASH of what it was fed (`43_ghash.md` R219 to R229): what the context holds after
GINIT, after each GAAD and GCIPH, and what GFIN makes of it. -/

namespace Sys2Proof.Machine

/-- The context has absorbed the string `S` with the subkey `H`: the recurrence over the whole blocks of `S` in `Y`, the rest
of `S` in the buffer. -/
structure GhashCtx.Absorbed (H : Block) (S : Bytes) (g : GhashCtx) : Prop where
  H_eq : g.H = H
  n_eq : g.n.toNat = (remainderOf S).length
  tail_eq : g.buf.toList.take g.n.toNat = remainderOf S
  Y_eq : g.Y = ghashFold H (wholeBlocks S)

section Absorbing

variable {H : Block} {S : Bytes} {g k : GhashCtx}

/-- The counts, the phase and the backend are no part of it. -/
theorem GhashCtx.Absorbed.congr (hg : g.Absorbed H S) (hH : k.H = g.H) (hn : k.n = g.n) (hbuf : k.buf = g.buf)
    (hY : k.Y = g.Y) : k.Absorbed H S :=
  ⟨hH.trans hg.H_eq, hn ▸ hg.n_eq, by rw [hbuf, hn, hg.tail_eq], hY.trans hg.Y_eq⟩

theorem GhashCtx.init_absorbed (H : Block) (cap : Bool) : (GhashCtx.init H cap).Absorbed H [] := ⟨rfl, rfl, rfl, rfl⟩

theorem GhashCtx.Absorbed.n_le (hg : g.Absorbed H S) : g.n.toNat ≤ 15 := by
  rw [hg.n_eq, remainderOf_length_eq_mod]
  omega

/-- A payload through the streaming buffer is absorbed behind what came before (R223). -/
theorem GhashCtx.Absorbed.absorb (hg : g.Absorbed H S) (D : Bytes) : (g.absorb D).Absorbed H (S ++ D) := by
  have hbwa := bwa_streams g.buf D hg.n_le
  have hn : (BitVec.ofNat 5 (bwa g.buf g.n.toNat D).n).toNat = (bwa g.buf g.n.toNat D).n :=
    Nat.mod_eq_of_lt (hbwa.n_le.trans_lt (by decide))
  rw [hg.tail_eq] at hbwa
  rw [GhashCtx.absorb_eq]
  refine ⟨hg.H_eq, ?_, ?_, ?_⟩
  · rw [hn, hbwa.n_eq, ← remainderOf_append]
  · rw [hn, hbwa.tail_eq, ← remainderOf_append]
  · rw [foldl_gMul_eq, hbwa.blocks_eq, hg.H_eq, hg.Y_eq, ghashFold, ghashFold, wholeBlocks_append S D, List.foldl_append]

/-- The flush absorbs the zeros up to the block boundary (R219). -/
theorem GhashCtx.Absorbed.pad (hg : g.Absorbed H S) : g.pad.Absorbed H (pad16 S) := by
  have hlength := (hg.n_eq).trans (remainderOf_length_eq_mod S)
  have hle := hg.n_le
  by_cases hn : g.n = 0#5
  · have hzero : g.n.toNat = 0 := by rw [hn]; rfl
    rw [GhashCtx.pad_of_empty hn, pad16_of_aligned (by omega)]
    exact hg
  · have hpos : g.n.toNat ≠ 0 := fun h => hn (BitVec.eq_of_toNat_eq h)
    have hblock : remainderOf S ++ padding S = (zeroFrom g.buf g.n.toNat).toList := by
      rw [zeroFrom_toList _ (by omega), hg.tail_eq, padding, show (16 - S.length % 16) % 16 = 16 - g.n.toNat by omega]
    have hwhole : wholeBlocks (pad16 S) = wholeBlocks S ++ [zeroFrom g.buf g.n.toNat] := by
      rw [pad16, wholeBlocks_append, hblock, ← List.append_nil (zeroFrom _ _).toList, wholeBlocks_toList_append]
      rfl
    have hrest := remainderOf_of_aligned (pad16_length_mod S)
    rw [GhashCtx.pad_of_pending hn]
    refine ⟨hg.H_eq, by rw [hrest]; rfl, by rw [hrest]; rfl, ?_⟩
    rw [hwhole, ghashFold, List.foldl_append, ← ghashFold, ← hg.Y_eq, gMul_backend _ false, hg.H_eq]
    rfl

end Absorbing

/-- What a context holds once GINIT has taken the subkey `H`, GAAD the associated data `A` and GCIPH the ciphertext `C`: the two
byte counts modulo `2^64`, and what has been absorbed by the phase (R220, R228). -/
structure GhashCtx.Holds (H : Block) (A C : Bytes) (g : GhashCtx) : Prop where
  lenAad_eq : g.lenAad = BitVec.ofNat 64 A.length
  lenCt_eq : g.lenCt = BitVec.ofNat 64 C.length
  absorbed : (g.phase = .aad ∧ C = [] ∧ g.Absorbed H A) ∨ (g.phase = .cipher ∧ g.Absorbed H (pad16 A ++ C))

section Live

variable {H : Block} {A C : Bytes} {g : GhashCtx}

theorem GhashCtx.init_holds (H : Block) (cap : Bool) : (GhashCtx.init H cap).Holds H [] [] :=
  ⟨rfl, rfl, .inl ⟨rfl, rfl, GhashCtx.init_absorbed H cap⟩⟩

theorem GhashCtx.Holds.live (hg : g.Holds H A C) : g.phase ≠ .invalid := by
  rcases hg.absorbed with ⟨hphase, -⟩ | ⟨hphase, -⟩ <;> simp [hphase]

/-- A byte count after a payload of `len` bytes. -/
theorem count_append {S D : Bytes} {len : BitVec 16} (hD : D.length = len.toNat) :
    BitVec.ofNat 64 ((BitVec.ofNat 64 S.length).toNat + len.toNat) = BitVec.ofNat 64 (S ++ D).length := by
  apply BitVec.eq_of_toNat_eq
  simp [hD]

theorem GhashCtx.Holds.addAad (hg : g.Holds H A []) (hphase : g.phase = .aad) {len : BitVec 16} {D : Bytes}
    (hD : D.length = len.toNat) : (g.addAad len D).Holds H (A ++ D) [] := by
  have habsorbed : g.Absorbed H A := by
    rcases hg.absorbed with ⟨-, -, h⟩ | ⟨hcipher, -⟩
    · exact h
    · exact absurd (hphase.symm.trans hcipher) (by decide)
  have hafter := habsorbed.absorb D
  rw [GhashCtx.absorb_eq] at hafter
  rw [GhashCtx.addAad_eq, hg.lenAad_eq, count_append hD]
  exact ⟨rfl, hg.lenCt_eq, .inl ⟨hphase, rfl, hafter.congr rfl rfl rfl rfl⟩⟩

/-- The first line of GCIPH leaves the associated data padded and the ciphertext so far behind it (R224). -/
theorem GhashCtx.Holds.enterCipher (hg : g.Holds H A C) : g.enterCipher.Absorbed H (pad16 A ++ C) := by
  rcases hg.absorbed with ⟨hphase, rfl, habsorbed⟩ | ⟨hphase, habsorbed⟩
  · rw [GhashCtx.enterCipher_of_aad hphase, List.append_nil]
    exact habsorbed.pad.congr rfl rfl rfl rfl
  · rw [GhashCtx.enterCipher_of_cipher hphase]
    exact habsorbed.congr rfl rfl rfl rfl

theorem GhashCtx.Holds.addCipher (hg : g.Holds H A C) {len : BitVec 16} {D : Bytes} (hD : D.length = len.toNat) :
    (g.addCipher len D).Holds H A (C ++ D) := by
  obtain ⟨-, hlenAad, -, hphase⟩ := g.addCipher_frame len D
  obtain ⟨-, -, hlenCt, -⟩ := g.enterCipher_frame
  have hafter := hg.enterCipher.absorb D
  rw [List.append_assoc, GhashCtx.absorb_eq] at hafter
  refine ⟨hlenAad.trans hg.lenAad_eq, ?_, .inr ⟨hphase.trans (GhashCtx.enterCipher_phase hg.live), ?_⟩⟩
  · rw [GhashCtx.addCipher, GhashCtx.absorb_eq, ← count_append hD, ← hg.lenCt_eq, ← hlenCt]
    exact add_len_eq_ofNat _ _
  · rw [GhashCtx.addCipher, GhashCtx.absorb_eq]
    exact hafter.congr rfl rfl rfl rfl

/-- Before the length block, both inputs are absorbed, each padded (R225, R229). -/
theorem GhashCtx.Holds.pad (hg : g.Holds H A C) : g.pad.Absorbed H (pad16 A ++ pad16 C) := by
  rcases hg.absorbed with ⟨-, rfl, habsorbed⟩ | ⟨-, habsorbed⟩
  · rw [pad16_of_aligned (S := []) rfl, List.append_nil]
    exact habsorbed.pad
  · rw [← pad16_append (pad16_length_mod A)]
    exact habsorbed.pad

theorem GhashCtx.Holds.lengthBlock (hg : g.Holds H A C) :
    g.lengthBlock.toList = be64 (BitVec.ofNat 64 (8 * A.length)) ++ be64 (BitVec.ofNat 64 (8 * C.length)) := by
  have hbits (n : Nat) : BitVec.ofNat 64 (8 * (BitVec.ofNat 64 n).toNat) = BitVec.ofNat 64 (8 * n) := by
    apply BitVec.eq_of_toNat_eq
    simp
  rw [GhashCtx.lengthBlock_toList, hg.lenAad_eq, hg.lenCt_eq, hbits, hbits]

/-- The value of the context is GHASH of what it was fed (R225, R229). -/
theorem GhashCtx.Holds.value (hg : g.Holds H A C) : g.value = (ghash H A C).toList := by
  have haligned : (pad16 A ++ pad16 C).length % 16 = 0 := by
    have hA := pad16_length_mod A
    have hC := pad16_length_mod C
    rw [List.length_append]
    omega
  have hblocks : ghashBlocks A C = wholeBlocks (pad16 A ++ pad16 C) ++ [g.lengthBlock] := by
    rw [ghashBlocks, ghashInput, List.append_assoc _ (be64 _), ← hg.lengthBlock, wholeBlocks_append,
      remainderOf_of_aligned haligned, List.nil_append, ← List.append_nil g.lengthBlock.toList, wholeBlocks_toList_append]
    rfl
  obtain ⟨hH, -, -, -, -⟩ := g.pad_frame
  rw [GhashCtx.value_eq, ghash, hblocks, ghashFold, List.foldl_append, ← ghashFold, ← hg.pad.Y_eq, ← hH, hg.pad.H_eq,
    gMul_backend _ false]
  rfl

end Live

/-- `G` after a command that completes. -/
theorem ghash_of_exec {i : Instr} {s t : State} (hnone : commandFault i s = none) (hdin : i.len.toNat ≤ s.din.length)
    (hex : exec i s = .next t) : t.g = ghashAfter i (s.din.take i.len.toNat) s.capClmul s.g := by
  rw [exec_effects hnone hdin] at hex
  exact (Host.Outcome.next.inj hex) ▸ rfl

/-! ### When the commands of a live context complete -/

theorem gaad_completes {s : State} (h : s.g.phase = .aad) (len : BitVec 16) : commandFault (.gaad 0#8 len) s = none := by
  simp [commandFault, gaadCheck, argUnused, h]

theorem gciph_completes {s : State} (h : s.g.phase ≠ .invalid) (len : BitVec 16) :
    commandFault (.gciph 0#8 len) s = none := by
  simp [commandFault, gciphCheck, argUnused, h]

theorem gfin_completes {s : State} (h : s.g.phase ≠ .invalid) : commandFault (.gfin 0#8 0#16) s = none := by
  simp [commandFault, gfinCheck, argUnused, lenIs, h]

/-- Every run of a context keeps what the context should hold: GINIT makes it, GAAD and GCIPH extend the two inputs. -/
theorem GhashRun.holds {H : Block} {A C : Bytes} {s : State} (hrun : GhashRun H A C s) : s.g.Holds H A C := by
  induction hrun with
  | @start s t hdin hex =>
    rw [ghash_of_exec (i := .ginit 0#8 16#16) rfl hdin hex]
    have hinit := GhashCtx.init_holds (blockAt s.din 0) s.capClmul
    rwa [← blockAt_take s.din (i := 0) (m := 16) le_rfl] at hinit ⊢
  | @aad H A C s t len _ hphase hdin hex ih =>
    obtain rfl : C = [] := by
      rcases ih.absorbed with ⟨-, h, -⟩ | ⟨hcipher, -⟩
      · exact h
      · exact absurd (hphase.symm.trans hcipher) (by decide)
    rw [ghash_of_exec (gaad_completes hphase len) hdin hex]
    exact ih.addAad hphase (List.length_take_of_le hdin)
  | @cipher H A C s t len _ hdin hex ih =>
    rw [ghash_of_exec (gciph_completes ih.live len) hdin hex]
    exact ih.addCipher (List.length_take_of_le hdin)
  | other _ hg ih => exact hg ▸ ih

/-- Settles O46: GFIN pushes the value of a context that holds the two inputs, which is the recurrence over their blocks. -/
theorem ghashValue : Obligations.GhashValue := by
  intro H A C s hrun
  have hg := hrun.holds
  exact ⟨_, ghash H A C, exec_effects (gfin_completes hg.live) (Nat.zero_le _), congrArg (s.dout ++ ·) hg.value,
    isGhash_ghash H A C⟩

end Sys2Proof.Machine
end

section
/-! PROOFS. The host's requests (`45_aead_host_sequences.md` R274, R351): one command sent to a core with empty channels, a list
of them, and a logical input fed in pieces. -/

namespace Sys2Proof.Machine

/-- A core that waits for the host: no fault, and nothing on any channel. -/
structure State.Quiet (s : State) : Prop where
  fault : s.fault = false
  cmd : s.cmd = []
  din : s.din = []
  dout : s.dout = []
  rsp : s.rsp = []

/-- A word and its payload pushed to a quiet core: the step runs the command, and leaves its results and its response. -/
theorem step_pushed {s : State} (hs : s.Quiet) {i : Instr} (hnone : commandFault i s = none) {D : Bytes}
    (hD : D.length = i.len.toNat) :
    step ((s.pushCmd (encode i)).pushDin D) = .next
      { s with
        p := polyAfter i D s.p
        g := ghashAfter i D s.capClmul s.g
        dout := outOf i D s
        rsp := [response i.opc (codeOf i D)] } := by
  have hcmd : ((s.pushCmd (encode i)).pushDin D).cmd = [encode i] := by simp [hs.cmd]
  have hdin : ((s.pushCmd (encode i)).pushDin D).din = D := by simp [hs.din]
  have htake : D.take i.len.toNat = D := List.take_of_length_le hD.le
  have hdrop : D.drop i.len.toNat = [] := List.drop_eq_nil_of_le hD.le
  have hnone' : commandFault i ((s.pushCmd (encode i)).pushDin D) = none := (commandFault_congr i rfl rfl).trans hnone
  have hout : outOf i D (((s.pushCmd (encode i)).pushDin D).popCmd.dropDin i.len.toNat) = outOf i D s :=
    outOf_congr i D rfl rfl rfl
  have hstep := (step_exec (s := (s.pushCmd (encode i)).pushDin D) hs.fault hcmd (decode_encode i)).trans
    (exec_effects hnone' (by rw [hdin, hD]))
  rw [hstep, hcmd, hdin, htake, hdrop, hout]
  simp [hs.cmd, hs.din, hs.dout, hs.rsp]

section Requests

variable {s t u : State} {q : Request} {qs qs' : List Request} {out out' : Bytes}

/-- A request whose command completes: its response, its result bytes, and the core with the two contexts moved on. -/
theorem transact_completes (hs : s.Quiet) (hnone : commandFault q.line.expand s = none)
    (hlen : q.payload.length = q.line.expand.len.toNat) :
    transact q s = some (response q.line.expand.opc (codeOf q.line.expand q.payload), outOf q.line.expand q.payload s,
      { s with
        p := polyAfter q.line.expand q.payload s.p
        g := ghashAfter q.line.expand q.payload s.capClmul s.g }) := by
  rw [transact, Asm.word, step_pushed hs hnone hlen]
  simp [hs.dout, hs.rsp]

/-- A list of requests is its first one, answered `OK`, and then the others. -/
theorem transactAll_cons_iff :
    transactAll (q :: qs) s = some (out, u) ↔ ∃ w o o' t, transact q s = some (w, o, t) ∧ w.extractLsb' 0 8 = codeOk
      ∧ transactAll qs t = some (o', u) ∧ out = o ++ o' := by
  rw [transactAll]
  constructor
  · intro h
    split at h
    · cases h
    next w o t hq =>
      split at h
      next hok =>
        split at h
        · cases h
        next o' v hqs =>
          cases h
          exact ⟨w, o, o', t, hq, hok, hqs, rfl⟩
      · cases h
  · rintro ⟨w, o, o', t, hq, hok, hqs, rfl⟩
    simp [hq, hok, hqs]

/-- A request that is answered `OK` goes on to the next. -/
theorem transactAll_cons {opc : BitVec 8} (hq : transact q s = some (response opc codeOk, out, t))
    (hqs : transactAll qs t = some (out', u)) : transactAll (q :: qs) s = some (out ++ out', u) :=
  transactAll_cons_iff.mpr ⟨_, _, _, _, hq, response_code _ _, hqs, rfl⟩

theorem transactAll_append (hqs : transactAll qs s = some (out, t)) (hqs' : transactAll qs' t = some (out', u)) :
    transactAll (qs ++ qs') s = some (out ++ out', u) := by
  induction qs generalizing s out with
  | nil =>
    obtain ⟨rfl, rfl⟩ := Prod.mk.inj (Option.some.inj hqs)
    exact hqs'
  | cons q qs ih =>
    obtain ⟨w, o, o', v, hq, hok, hrest, rfl⟩ := transactAll_cons_iff.mp hqs
    exact transactAll_cons_iff.mpr ⟨w, o, o' ++ out', v, hq, hok, ih hrest, List.append_assoc _ _ _⟩

end Requests

/-! ### A logical input in pieces -/

/-- The pieces are the input, and each is a payload that `LEN` can say (`30_encoding.md` R93). -/
theorem payloads_spec {fuel : Nat} {D : Bytes} (h : D.length ≤ fuel) :
    (payloads fuel D).flatten = D ∧ ∀ c ∈ payloads fuel D, c.length ≤ 65535 := by
  induction fuel generalizing D with
  | zero => simp [payloads]; omega
  | succ fuel ih =>
    rw [payloads]
    split_ifs with hshort
    · simp [hshort]
    · obtain ⟨hflatten, hle⟩ := ih (D := D.drop 65535) (by rw [List.length_drop]; omega)
      refine ⟨by rw [List.flatten_cons, hflatten, List.take_append_drop], fun c hc => ?_⟩
      rcases List.mem_cons.mp hc with rfl | hc
      · exact List.length_take_le _ _
      · exact hle c hc

/-- Feeding a logical input, when each payload moves the core from holding `M` to holding `M` and the payload: the core then
holds `M` and the whole input. -/
theorem transactAll_feed {line : BitVec 16 → Asm} {opc : BitVec 8} {R : Bytes → State → Prop}
    (hpayload : ∀ M c t, c.length ≤ 65535 → R M t →
      ∃ u, transact ⟨line (BitVec.ofNat 16 c.length), c⟩ t = some (response opc codeOk, [], u) ∧ R (M ++ c) u)
    {M : Bytes} {t : State} (ht : R M t) (D : Bytes) :
    ∃ u, transactAll (feed line D) t = some ([], u) ∧ R (M ++ D) u := by
  obtain ⟨hflatten, hle⟩ := payloads_spec (le_refl D.length)
  rw [feed]
  generalize payloads D.length D = cs at hflatten hle
  subst hflatten
  induction cs generalizing M t with
  | nil => exact ⟨t, rfl, by simpa using ht⟩
  | cons c cs ih =>
    obtain ⟨v, hc, hv⟩ := hpayload M c t (hle c List.mem_cons_self) ht
    obtain ⟨u, hcs, hu⟩ := ih hv fun c' hc' => hle c' (List.mem_cons_of_mem _ hc')
    refine ⟨u, transactAll_cons hc hcs, ?_⟩
    rwa [List.flatten_cons, ← List.append_assoc]

theorem ofNat_length_toNat {c : Bytes} (h : c.length ≤ 65535) : c.length = (BitVec.ofNat 16 c.length).toNat := by
  rw [BitVec.toNat_ofNat, Nat.mod_eq_of_lt (by omega)]

end Sys2Proof.Machine
end

section
/-! PROOFS. The `PolyTag` sequence and ChaCha20-Poly1305 (`45_aead_host_sequences.md` R272 to R277): the tag is the authenticator
of the transcript, and opening compares with it. -/

namespace Sys2Proof.Machine

theorem State.Quiet.withContexts {s : State} (hs : s.Quiet) (p : PolyCtx) (g : GhashCtx) :
    ({ s with p := p, g := g } : State).Quiet :=
  ⟨hs.fault, hs.cmd, hs.din, hs.dout, hs.rsp⟩

/-- The core `t` is `s` but for a Poly1305 context that holds the key `K` and the message `M`. -/
structure PolyFed (s : State) (K M : Bytes) (t : State) : Prop where
  frame : t = { s with p := t.p }
  holds : t.p.Holds K M

section Sequence

variable {s t : State} {K M : Bytes}

theorem PolyFed.quiet (ht : PolyFed s K M t) (hs : s.Quiet) : t.Quiet := by
  rw [ht.frame]
  exact hs.withContexts _ _

theorem transact_pinit (hs : s.Quiet) (hK : K.length = 32) :
    ∃ t, transact ⟨.pinit, K⟩ s = some (response 0x20#8 codeOk, [], t) ∧ PolyFed s K [] t :=
  ⟨{ s with p := PolyCtx.init K }, transact_completes (q := ⟨.pinit, K⟩) hs rfl hK, rfl, PolyCtx.init_holds hK⟩

/-- A payload of a PUPD extends the message. -/
theorem transact_pupd (hs : s.Quiet) {c : Bytes} (hc : c.length ≤ 65535) (ht : PolyFed s K M t) :
    ∃ u, transact ⟨.pupd (BitVec.ofNat 16 c.length), c⟩ t = some (response 0x21#8 codeOk, [], u)
      ∧ PolyFed s K (M ++ c) u := by
  have hnone : commandFault (.pupd 0#8 (BitVec.ofNat 16 c.length)) t = none := by
    simp [commandFault, pupdCheck, argUnused, ht.holds.active]
  refine ⟨{ t with p := t.p.update c },
    transact_completes (q := ⟨.pupd _, c⟩) (ht.quiet hs) hnone (ofNat_length_toNat hc), ?_, ht.holds.update c⟩
  rw [ht.frame]

theorem transactAll_feed_pupd (hs : s.Quiet) (ht : PolyFed s K M t) (D : Bytes) :
    ∃ u, transactAll (feed .pupd D) t = some ([], u) ∧ PolyFed s K (M ++ D) u :=
  transactAll_feed (R := PolyFed s K) (fun _ _ _ hc ht => transact_pupd hs hc ht) ht D

/-- PFIN answers the authenticator and leaves `P` wiped (R185, R186). -/
theorem transactAll_pfin (hs : s.Quiet) (ht : PolyFed s K M t) :
    transactAll [⟨.pfin, []⟩] t = some (poly1305 K M, { s with p := PolyCtx.zero }) := by
  have hnone : commandFault (.pfin 0#8 0#16) t = none := by
    simp [commandFault, pfinCheck, argUnused, lenIs, ht.holds.active]
  have hwiped : { t with p := PolyCtx.zero } = { s with p := PolyCtx.zero } := by rw [ht.frame]
  have hq : transact ⟨.pfin, []⟩ t = some (response 0x22#8 codeOk, poly1305 K M, { s with p := PolyCtx.zero }) := by
    rw [← hwiped, ← ht.holds.tag]
    exact transact_completes (q := ⟨.pfin, []⟩) (ht.quiet hs) hnone rfl
  exact (transactAll_cons hq rfl).trans (by rw [List.append_nil])

end Sequence

/-- The `PolyTag` sequence on a quiet core (R274). -/
theorem polyTag_eq {s : State} (hs : s.Quiet) {otk : Bytes} (hotk : otk.length = 32) (aad ct : Bytes) :
    polyTag otk aad ct s = some (poly1305 otk (transcript aad ct), { s with p := PolyCtx.zero }) := by
  obtain ⟨t₀, hinit, ht₀⟩ := transact_pinit hs hotk
  obtain ⟨t₁, haad, ht₁⟩ := transactAll_feed_pupd hs ht₀ aad
  obtain ⟨t₂, hpadAad, ht₂⟩ := transactAll_feed_pupd hs ht₁ (padding aad)
  obtain ⟨t₃, hct, ht₃⟩ := transactAll_feed_pupd hs ht₂ ct
  obtain ⟨t₄, hpadCt, ht₄⟩ := transactAll_feed_pupd hs ht₃ (padding ct)
  obtain ⟨t₅, hlengths, ht₅⟩ := transactAll_feed_pupd hs ht₄ (lengthBytes aad ct)
  have hstart : transactAll [⟨.pinit, otk⟩] s = some ([], t₀) := transactAll_cons hinit rfl
  exact transactAll_append (transactAll_append (transactAll_append (transactAll_append (transactAll_append
    (transactAll_append hstart haad) hpadAad) hct) hpadCt) hlengths) (transactAll_pfin hs ht₅)

/-- Settles O58: each part of the transcript extends the message, and PFIN answers its authenticator. -/
theorem polyTagSequence : Obligations.PolyTagSequence :=
  fun _ aad ct _ hotk hf hcmd hdin hdout hrsp => ⟨_, polyTag_eq ⟨hf, hcmd, hdin, hdout, hrsp⟩ hotk aad ct, rfl⟩

/-! ### Comparing a tag -/

theorem bytesAt_toList {n : Nat} {B : Bytes} (h : B.length = n) : (bytesAt n B).toList = B := by
  apply List.ext_getElem
  · simp [h]
  · intro i _ hi
    simp [bytesAt, List.getD_eq_getElem?_getD, hi]

/-- The host's comparison on a quiet core: equality of the two tags, the core unchanged (R277, R285). -/
theorem verifyEqual_eq {s : State} (hs : s.Quiet) {n : Nat} (hpos : 1 ≤ n) (hn : n ≤ 16) (a b : Vector Byte n) :
    verifyEqual a b s = some (decide (a.toList = b.toList), s) := by
  have hlen : (BitVec.ofNat 16 (2 * n)).toNat = 2 * n := by
    rw [BitVec.toNat_ofNat]
    omega
  have hpayload : (a.toList ++ b.toList).length = (BitVec.ofNat 16 (2 * n)).toNat := by
    rw [hlen, List.length_append, Vector.length_toList, Vector.length_toList]
    omega
  have hnone : commandFault (.cteq 0#8 (BitVec.ofNat 16 (2 * n))) s = none :=
    commandFault_none_of_legal rfl rfl (lenPairs_iff.mpr (by omega))
  have hcode : codeOf (.cteq 0#8 (BitVec.ofNat 16 (2 * n))) (a.toList ++ b.toList) =
      if a.toList = b.toList then codeOk else codeAuthFail := by
    have h := codeOf_cteq 0#8 hpayload.ge
    rw [List.take_of_length_le hpayload.le, hlen, Nat.mul_div_cancel_left _ (by decide)] at h
    have hb : b.toList.take n = b.toList := List.take_of_length_le (by simp)
    simpa [slice, hb] using h
  have hq : transact ⟨.cteq (BitVec.ofNat 16 (2 * n)), a.toList ++ b.toList⟩ s =
      some (response 0x12#8 (if a.toList = b.toList then codeOk else codeAuthFail), [], s) :=
    hcode ▸ transact_completes (q := ⟨.cteq (BitVec.ofNat 16 (2 * n)), a.toList ++ b.toList⟩) hs hnone hpayload
  have hcodes : response 0x12#8 codeAuthFail ≠ response 0x12#8 codeOk := by decide
  rw [verifyEqual, hq]
  by_cases hab : a.toList = b.toList
  · simp [hab]
  · simp [hab, hcodes]

/-! ### ChaCha20-Poly1305 -/

theorem poly1305_length (K M : Bytes) : (poly1305 K M).length = 16 := by simp [poly1305, le128]

theorem oneTimeKey_length (key : Vector Byte 32) (nonce : Vector Byte 12) : (oneTimeKey key nonce).length = 32 := by
  simp [oneTimeKey]

@[simp] theorem xorStream_length (ks : Nat → Byte) (base : Nat) (D : Bytes) : (xorStream ks base D).length = D.length := by
  simp [xorStream]

theorem xorStream_getD (ks : Nat → Byte) (base : Nat) (D : Bytes) {i : Nat} (hi : i < D.length) :
    (xorStream ks base D).getD i 0#8 = D.getD i 0#8 ^^^ ks (base + i) := by
  simp [xorStream, List.getD_eq_getElem?_getD, hi]

/-- The same keystream takes itself away again. -/
theorem xorStream_xorStream (ks : Nat → Byte) (base : Nat) (D : Bytes) :
    xorStream ks base (xorStream ks base D) = D := by
  apply List.ext_getElem
  · simp
  · intro i _ hi
    simp [xorStream, hi]

section Chacha

variable {s : State} (hs : s.Quiet) (key : Vector Byte 32) (nonce : Vector Byte 12) (aad : Bytes)

include hs

/-- A seal on a quiet core (R275, R276). -/
theorem chachaSeal_eq (pt : Bytes) :
    chachaSeal key nonce aad pt s = some ((xorStream (ks20 key nonce) 64 pt,
      bytesAt 16 (poly1305 (oneTimeKey key nonce) (transcript aad (xorStream (ks20 key nonce) 64 pt)))),
      { s with p := PolyCtx.zero }) := by
  rw [chachaSeal, polyTag_eq hs (oneTimeKey_length key nonce)]

/-- An opening on a quiet core: it decrypts when the tag received is the authenticator, and erases when it is not (R277). -/
theorem chachaOpen_eq (ct : Bytes) (tag : Vector Byte 16) :
    chachaOpen key nonce aad ct tag s = some
      (if tag.toList = poly1305 (oneTimeKey key nonce) (transcript aad ct) then
        (ChachaHost.start key nonce ct).decrypt key nonce ct else (ChachaHost.start key nonce ct).fail,
      { s with p := PolyCtx.zero }) := by
  have hquiet : ({ s with p := PolyCtx.zero } : State).Quiet := hs.withContexts _ _
  rw [chachaOpen]
  simp only [ChachaHost.start, polyTag_eq hs (oneTimeKey_length key nonce), verifyEqual_eq hquiet (n := 16) (by decide) le_rfl,
    bytesAt_toList (poly1305_length _ _), eq_comm (b := tag.toList)]
  by_cases htag : tag.toList = poly1305 (oneTimeKey key nonce) (transcript aad ct)
  · simp [htag]
  · simp [htag]

end Chacha

/-- Settles O59: what a seal answers, and an opening by the comparison with the authenticator of what was received. -/
theorem chachaOpenSeal : Obligations.ChachaOpenSeal := by
  intro key nonce aad pt s hf hcmd hdin hdout hrsp
  have hs : s.Quiet := ⟨hf, hcmd, hdin, hdout, hrsp⟩
  have hsealed : ({ s with p := PolyCtx.zero } : State).Quiet := hs.withContexts _ _
  refine ⟨⟨_, _, _, chachaSeal_eq hs key nonce aad pt, xorStream_length _ _ _, fun i => xorStream_getD _ _ _,
    bytesAt_toList (poly1305_length _ _), ⟨_, _, chachaOpen_eq hsealed key nonce aad _ _, ?_⟩, fun tag' htag => ?_⟩,
    fun ct tag => ⟨_, _, chachaOpen_eq hs key nonce aad ct tag, rfl, ?_⟩⟩
  · rw [if_pos (bytesAt_toList (poly1305_length _ _))]
    exact ⟨rfl, xorStream_xorStream _ _ _⟩
  · refine ⟨_, _, chachaOpen_eq hsealed key nonce aad _ tag', ?_⟩
    rw [if_neg fun h => htag (Vector.toList_inj.mp (h.trans (bytesAt_toList (poly1305_length _ _)).symm))]
    rfl
  · split_ifs with htag
    · exact ⟨iff_of_true rfl htag, fun _ => rfl, nofun⟩
    · refine ⟨iff_of_false nofun htag, nofun, fun _ => ⟨?_, ?_, ?_⟩⟩
      · simp [ChachaHost.fail, ChachaHost.start, zeros]
      · simp [ChachaHost.fail, ChachaHost.start, oneTimeKey_length]
      · simp [ChachaHost.fail, ChachaHost.start]

end Sys2Proof.Machine
end

section
/-! PROOFS. GCM (`45_aead_host_sequences.md` R280 to R286): the GHASH sequence of the host, the initial counter block, the tag,
and opening by the comparison with it. -/

namespace Sys2Proof.Machine

theorem blockAt_toList_self (B : Block) : blockAt B.toList 0 = B := by
  have h := blockAt_toList_append B []
  rwa [List.append_nil] at h

/-- The core `t` is `s` but for a GHASH context that holds the subkey `H`, the associated data `A` and the ciphertext `C`. -/
structure GhashFed (s : State) (H : Block) (A C : Bytes) (t : State) : Prop where
  frame : t = { s with g := t.g }
  holds : t.g.Holds H A C

section Sequence

variable {s t : State} {H : Block} {A C : Bytes}

theorem GhashFed.quiet (ht : GhashFed s H A C t) (hs : s.Quiet) : t.Quiet := by
  rw [ht.frame]
  exact hs.withContexts _ _

theorem transact_ginit (hs : s.Quiet) (H : Block) :
    ∃ t, transact ⟨.ginit, H.toList⟩ s = some (response 0x30#8 codeOk, [], t) ∧ GhashFed s H [] [] t
      ∧ t.g.phase = .aad := by
  have hinit : ghashAfter (.ginit 0#8 16#16) H.toList s.capClmul s.g = GhashCtx.init H s.capClmul := by
    rw [ghashAfter, blockAt_toList_self]
  refine ⟨{ s with g := GhashCtx.init H s.capClmul }, ?_, ⟨rfl, GhashCtx.init_holds H _⟩, rfl⟩
  rw [← hinit]
  exact transact_completes (q := ⟨.ginit, H.toList⟩) hs rfl (by simp [Asm.expand])

/-- A payload of a GAAD extends the associated data. -/
theorem transact_gaad (hs : s.Quiet) {c : Bytes} (hc : c.length ≤ 65535) (ht : GhashFed s H A [] t)
    (hphase : t.g.phase = .aad) :
    ∃ u, transact ⟨.gaad (BitVec.ofNat 16 c.length), c⟩ t = some (response 0x31#8 codeOk, [], u)
      ∧ GhashFed s H (A ++ c) [] u ∧ u.g.phase = .aad := by
  obtain ⟨-, -, hafter, -⟩ := t.g.addAad_frame (BitVec.ofNat 16 c.length) c
  refine ⟨{ t with g := t.g.addAad (BitVec.ofNat 16 c.length) c },
    transact_completes (q := ⟨.gaad _, c⟩) (ht.quiet hs) (gaad_completes hphase _) (ofNat_length_toNat hc),
    ⟨?_, ht.holds.addAad hphase (ofNat_length_toNat hc)⟩, hafter.trans hphase⟩
  rw [ht.frame]

/-- A payload of a GCIPH extends the ciphertext. -/
theorem transact_gciph (hs : s.Quiet) {c : Bytes} (hc : c.length ≤ 65535) (ht : GhashFed s H A C t) :
    ∃ u, transact ⟨.gciph (BitVec.ofNat 16 c.length), c⟩ t = some (response 0x32#8 codeOk, [], u)
      ∧ GhashFed s H A (C ++ c) u := by
  refine ⟨{ t with g := t.g.addCipher (BitVec.ofNat 16 c.length) c },
    transact_completes (q := ⟨.gciph _, c⟩) (ht.quiet hs) (gciph_completes ht.holds.live _) (ofNat_length_toNat hc),
    ?_, ht.holds.addCipher (ofNat_length_toNat hc)⟩
  rw [ht.frame]

theorem transactAll_feed_gaad (hs : s.Quiet) (ht : GhashFed s H A [] t) (hphase : t.g.phase = .aad) (D : Bytes) :
    ∃ u, transactAll (feed .gaad D) t = some ([], u) ∧ GhashFed s H (A ++ D) [] u ∧ u.g.phase = .aad :=
  transactAll_feed (R := fun A t => GhashFed s H A [] t ∧ t.g.phase = .aad)
    (fun _ _ _ hc ht => transact_gaad hs hc ht.1 ht.2) ⟨ht, hphase⟩ D

theorem transactAll_feed_gciph (hs : s.Quiet) (ht : GhashFed s H A C t) (D : Bytes) :
    ∃ u, transactAll (feed .gciph D) t = some ([], u) ∧ GhashFed s H A (C ++ D) u :=
  transactAll_feed (R := fun C t => GhashFed s H A C t) (fun _ _ _ hc ht => transact_gciph hs hc ht) ht D

/-- GFIN answers GHASH of what was fed and leaves `G` wiped (R225, R229). -/
theorem transactAll_gfin (hs : s.Quiet) (ht : GhashFed s H A C t) :
    transactAll [⟨.gfin, []⟩] t = some ((ghash H A C).toList, { s with g := GhashCtx.zero }) := by
  have hwiped : { t with g := GhashCtx.zero } = { s with g := GhashCtx.zero } := by rw [ht.frame]
  have hq : transact ⟨.gfin, []⟩ t =
      some (response 0x33#8 codeOk, (ghash H A C).toList, { s with g := GhashCtx.zero }) := by
    rw [← hwiped, ← ht.holds.value]
    exact transact_completes (q := ⟨.gfin, []⟩) (ht.quiet hs) (gfin_completes ht.holds.live) rfl
  exact (transactAll_cons hq rfl).trans (by rw [List.append_nil])

end Sequence

/-! ### The initial counter block and the tag -/

/-- The initial counter block (R281). -/
def initialCounter (H : Block) (nonce : Bytes) : Block :=
  if nonce.length = 12 then blockAt (nonce ++ [0#8, 0#8, 0#8, 1#8]) 0 else ghash H [] nonce

theorem initialCounter_of_twelve {nonce : Bytes} (h : nonce.length = 12) (H : Block) :
    (initialCounter H nonce).toList = nonce ++ [0x00#8, 0x00#8, 0x00#8, 0x01#8] := by
  rw [initialCounter, if_pos h, blockAt_toList (by simp [h]), slice, List.drop_zero, List.take_of_length_le (by simp [h])]

theorem initialCounter_of_other {nonce : Bytes} (h : nonce.length ≠ 12) (H : Block) :
    IsGhash H [] nonce (initialCounter H nonce) := by
  rw [initialCounter, if_neg h]
  exact isGhash_ghash H [] nonce

section Gcm

variable {s : State} (hs : s.Quiet)

include hs

/-- The host's initial counter block on a quiet core, which stays quiet, with `G` as it was or wiped (R281). -/
theorem gcmY0_eq (H : Block) (nonce : Bytes) :
    ∃ t, gcmY0 H nonce s = some (initialCounter H nonce, t) ∧ t.Quiet
      ∧ ({ t with g := GhashCtx.zero } : State) = { s with g := GhashCtx.zero } := by
  rw [gcmY0, initialCounter]
  split_ifs with h
  · exact ⟨s, rfl, hs, rfl⟩
  · obtain ⟨t₀, hinit, ht₀, -⟩ := transact_ginit hs H
    obtain ⟨t₁, hfeed, ht₁⟩ := transactAll_feed_gciph hs ht₀ nonce
    have hstart : transactAll [⟨.ginit, H.toList⟩] s = some ([], t₀) := transactAll_cons hinit rfl
    rw [transactAll_append (transactAll_append hstart hfeed) (transactAll_gfin hs ht₁)]
    simp only [List.nil_append, blockAt_toList_self]
    exact ⟨_, rfl, hs.withContexts _ _, rfl⟩

/-- The host's tag on a quiet core: GHASH of the two inputs under the mask, cut to `ntag` bytes (R226, R283). -/
theorem gcmTag_eq {ntag : BitVec 8} (hlo : 2 ≤ ntag.toNat) (hhi : ntag.toNat ≤ 16) (H mask : Block) (aad ct : Bytes) :
    gcmTag H mask aad ct ntag s =
      some ((xorBlock (ghash H aad ct) mask).toList.take ntag.toNat, { s with g := GhashCtx.zero }) := by
  obtain ⟨t₀, hinit, ht₀, hphase⟩ := transact_ginit hs H
  obtain ⟨t₁, haad, ht₁, -⟩ := transactAll_feed_gaad hs ht₀ hphase aad
  obtain ⟨t₂, hct, ht₂⟩ := transactAll_feed_gciph hs ht₁ ct
  have hstart : transactAll [⟨.ginit, H.toList⟩] s = some ([], t₀) := transactAll_cons hinit rfl
  have hwiped : ({ s with g := GhashCtx.zero } : State).Quiet := hs.withContexts _ _
  have hlegal : argIn 2 16 ntag = true := argIn_iff.mpr ⟨hlo, hhi⟩
  have hnone : commandFault (.gtag ntag 32#16) { s with g := GhashCtx.zero } = firstFault [(lenIs 32 32#16, .fLen)] :=
    commandFault_rest rfl hlegal
  have hmask : blockAt ((ghash H aad ct).toList ++ mask.toList) 16 = mask :=
    (blockAt_append_right _ _ 0).trans (blockAt_toList_self mask)
  have hout : outOf (.gtag ntag 32#16) ((ghash H aad ct).toList ++ mask.toList) { s with g := GhashCtx.zero } =
      (xorBlock (ghash H aad ct) mask).toList.take ntag.toNat := by
    rw [outOf, blockAt_toList_append, hmask]
  have hq := transact_completes (q := ⟨.gtag ntag, (ghash H aad ct).toList ++ mask.toList⟩) hwiped hnone
    (by simp [Asm.expand])
  rw [gcmTag, transactAll_append (transactAll_append (transactAll_append hstart haad) hct) (transactAll_gfin hs ht₂), ← hout]
  exact (transactAll_cons (opc := 0x34#8) hq rfl).trans (by rw [List.append_nil]; rfl)

end Gcm

/-- The tag of what is sealed or received, before it is cut (R283). -/
def fullTag (K : BlockKey) (nonce aad ct : Bytes) : Block :=
  xorBlock (ghash (gcmSubkey K) aad ct) (Config.blockEncrypt K (initialCounter (gcmSubkey K) nonce))

theorem take_toList_length {n : Nat} (hn : n ≤ 16) (B : Block) : (B.toList.take n).length = n := by simp [hn]

section Compositions

variable {s : State} (hs : s.Quiet) {ntag : BitVec 8} (hlo : 2 ≤ ntag.toNat) (hhi : ntag.toNat ≤ 16) (K : BlockKey)
  (nonce aad : Bytes)

include hs hlo hhi

/-- A seal on a quiet core (R282 to R284). -/
theorem gcmSeal_eq (pt : Bytes) :
    let ct := xorStream (ctrStream K (initialCounter (gcmSubkey K) nonce)) 16 pt
    gcmSeal K nonce aad pt ntag s = some ((ct, bytesAt ntag.toNat ((fullTag K nonce aad ct).toList.take ntag.toNat)),
      { s with g := GhashCtx.zero }) := by
  obtain ⟨t, hY0, ht, hwiped⟩ := gcmY0_eq hs (gcmSubkey K) nonce
  rw [gcmSeal, hY0, ← hwiped]
  simp only [gcmTag_eq ht hlo hhi]
  rfl

/-- An opening on a quiet core: it decrypts when the tag received is that of what was received, and gives zeros when it is not
(R285). -/
theorem gcmOpen_eq (ct : Bytes) (tag : Vector Byte ntag.toNat) :
    gcmOpen K nonce aad ct ntag tag s = some
      (if tag.toList = (fullTag K nonce aad ct).toList.take ntag.toNat then
        { ok := true, out := xorStream (ctrStream K (initialCounter (gcmSubkey K) nonce)) 16 ct }
      else { ok := false, out := zeros ct.length }, { s with g := GhashCtx.zero }) := by
  obtain ⟨t, hY0, ht, hwiped⟩ := gcmY0_eq hs (gcmSubkey K) nonce
  have hverify := verifyEqual_eq (ht.withContexts t.p GhashCtx.zero) (n := ntag.toNat) (by omega) hhi
    (bytesAt ntag.toNat ((fullTag K nonce aad ct).toList.take ntag.toNat)) tag
  rw [bytesAt_toList (take_toList_length hhi _)] at hverify
  rw [fullTag] at hverify ⊢
  rw [gcmOpen, hY0, ← hwiped]
  simp only [gcmTag_eq ht hlo hhi, hverify, eq_comm (a := tag.toList)]
  split_ifs with htag
  · simp [htag]
  · simp [htag]

end Compositions

/-- Settles O60: the initial counter block, what a seal answers, and an opening by the comparison with the tag of what was
received. -/
theorem gcmOpenSeal : Obligations.GcmOpenSeal := by
  intro K nonce aad pt ntag s hlo hhi hf hcmd hdin hdout hrsp
  have hs : s.Quiet := ⟨hf, hcmd, hdin, hdout, hrsp⟩
  have hsealed : ({ s with g := GhashCtx.zero } : State).Quiet := hs.withContexts _ _
  have htag (ct : Bytes) := bytesAt_toList (take_toList_length hhi (fullTag K nonce aad ct))
  refine ⟨initialCounter (gcmSubkey K) nonce, fun h => initialCounter_of_twelve h _, fun h => initialCounter_of_other h _,
    ⟨_, _, _, gcmSeal_eq hs hlo hhi K nonce aad pt, xorStream_length _ _ _, fun i => xorStream_getD _ _ _,
      ⟨_, isGhash_ghash _ _ _, htag _⟩, ⟨_, _, gcmOpen_eq hsealed hlo hhi K nonce aad _ _, ?_⟩, fun tag' hne => ?_⟩,
    fun ct tag => ⟨_, _, _, gcmOpen_eq hs hlo hhi K nonce aad ct tag, rfl, isGhash_ghash _ _ _, ?_⟩⟩
  · rw [if_pos (htag _)]
    exact ⟨rfl, xorStream_xorStream _ _ _⟩
  · refine ⟨_, _, gcmOpen_eq hsealed hlo hhi K nonce aad _ tag', ?_⟩
    rw [if_neg fun h => hne (Vector.toList_inj.mp (h.trans (htag _).symm))]
  · split_ifs with hok
    · exact ⟨iff_of_true rfl hok, fun _ => rfl, nofun⟩
    · exact ⟨iff_of_false nofun hok, nofun, fun _ => rfl⟩

end Sys2Proof.Machine
end
